-- ==== Sys2Proof/Word.lean ====
section
/-! DEFINITION. The two widths CORE computes with (00_scope.md R10, 20_memory.md R71). -/

namespace Sys2Proof

/-- A byte: 8 bits in every address space (20_memory.md R60). -/
abbrev Byte := BitVec 8

/-- A `u32`: an FVM register, a window cursor, a distance (00_scope.md R10). -/
abbrev Word := BitVec 32

end Sys2Proof
end

