-- ==== Sys2Proof/Config.lean ====
section
/-! DEFINITION. What is fixed for one machine: the sizes of 00_scope.md R9 and the OPEN parameters of
92_eei_decisions.md. The parameters' default values stand in Machine/Params.lean. -/

namespace Sys2Proof

/-- The seven standard filters (30_encoding.md R120). -/
inductive StdKind where
  | e8 | e8e9 | itanium | delta | rgb | audio | upcase
  deriving DecidableEq, Repr

/-- One row of the parameter `STD_SIGNATURES`: a blob of `codeLen` bytes with this CRC-32 selects `kind`
(30_encoding.md R120). -/
structure Signature where
  kind : StdKind
  codeLen : Nat
  crc : Word
  deriving DecidableEq, Repr

/-- The parameter `NATIVE` (47_fvm_control.md R391): its default value, rules R392 to R398 (entry 7), or a value given in its
place, by a name (entry 31). -/
inductive NativeChoice where
  | default
  | given (name : Nat)
  deriving DecidableEq, Repr

/-- `NATIVE[kind]` where a value is given in place of the default: some total function from the 0x40000 bytes of `Mem` and
the registers to the same, and nothing else is known of it (47_fvm_control.md R391, entry 31). -/
opaque Config.nativeGiven (name : Nat) (kind : StdKind) (mem : List Byte) (regs : Vector Word 8) :
  List Byte × Vector Word 8

/-- The OPEN parameters a model takes (92_eei_decisions.md). `HOST_MAP` has no content here: the host's registers
are named fields. -/
structure Config where
  /-- `HIST_MAX`, most bytes of history a match can reach. -/
  histMax : Nat
  /-- `FILT_MAX`, most programs in a registry. -/
  filtMax : Nat
  /-- `FVM_MAX_OPS`, most commands in one filter execution. -/
  fvmMaxOps : Nat
  /-- `STD_SIGNATURES`. -/
  signatures : List Signature
  /-- `NATIVE`. -/
  native : NativeChoice
  deriving DecidableEq, Repr

/-- `SIZE_MAX`, the largest payload, output and history (00_scope.md R9, 70_reset_and_hazards.md R444). -/
def Config.sizeMax : Nat := 0xFFFFFFFF
/-- `NC`, the size of alphabet LD. -/
def Config.sizeLD : Nat := 299
/-- `DC`, the size of alphabet DD. -/
def Config.sizeDD : Nat := 60
/-- `LDC`, the size of alphabet LDD. -/
def Config.sizeLDD : Nat := 17
/-- `RC`, the size of alphabet RD. -/
def Config.sizeRD : Nat := 28
/-- `BC_SIZE`, the size of the meta-alphabet MD. -/
def Config.sizeMD : Nat := 20
/-- `HUFF_TABLE_SIZE`, the number of transmitted code lengths. -/
def Config.huffTableSize : Nat := 404

end Sys2Proof
end

