-- ==== Sys2Proof/Syntax.lean ====
section
/-! DEFINITION. The instructions of CORE: one constructor of `Instr` per row of spec/opcode_table.json.
An FVM command carries its `byte_mode` (where its opcode has one) and its operands. A symbol of the stream carries no
operand: the fields that follow it depend on the tables in force, and its meaning reads them (entry 2). -/

namespace Sys2Proof

/-- The five operand forms of 30_encoding.md R116. -/
inductive Operand where
  /-- `rN` -/
  | reg (r : Fin 8)
  /-- `#d` -/
  | imm (d : Word)
  /-- `[rN]`, `REGMEM(r, 0)` -/
  | regmem0 (r : Fin 8)
  /-- `[rN+b]`, `REGMEM(r, b)` -/
  | regmemB (r : Fin 8) (b : Word)
  /-- `[b]` -/
  | absmem (b : Word)
  deriving DecidableEq, Repr

/-- The five forms of the variable-length number (30_encoding.md R112), each with the fields after its selector. -/
inductive VnumForm where
  | f00 (x : BitVec 4)
  | f01 (h l : BitVec 4)
  | f01h0 (x : BitVec 8)
  | f10 (x : BitVec 16)
  | f11 (x : BitVec 32)
  deriving DecidableEq, Repr

/-- The five Huffman tables (10_state.md R34). -/
inductive TableId where
  | ld | dd | ldd | rd | md
  deriving DecidableEq, Repr

/-- A pending invocation of a filter program (10_state.md R43). `prog` is the registry index. -/
structure FilterInstance where
  prog : Nat
  blockStart : Word
  blockLength : Word
  execCount : Word
  initR : Vector Word 7
  userData : List Byte
  deriving DecidableEq, Repr

/-- The instructions of CORE. -/
inductive Instr where
  -- FVM commands, 30_encoding.md R113
  | mov (bm : Bool) (op1 op2 : Operand)
  | cmp (bm : Bool) (op1 op2 : Operand)
  | add (bm : Bool) (op1 op2 : Operand)
  | sub (bm : Bool) (op1 op2 : Operand)
  | jz (op1 : Operand)
  | jnz (op1 : Operand)
  | inc (bm : Bool) (op1 : Operand)
  | dec (bm : Bool) (op1 : Operand)
  | jmp (op1 : Operand)
  | bxor (bm : Bool) (op1 op2 : Operand)
  | band (bm : Bool) (op1 op2 : Operand)
  | bor (bm : Bool) (op1 op2 : Operand)
  | test (bm : Bool) (op1 op2 : Operand)
  | js (op1 : Operand)
  | jns (op1 : Operand)
  | jb (op1 : Operand)
  | jbe (op1 : Operand)
  | ja (op1 : Operand)
  | jae (op1 : Operand)
  | push (op1 : Operand)
  | pop (op1 : Operand)
  | call (op1 : Operand)
  | ret
  | bnot (bm : Bool) (op1 : Operand)
  | shl (bm : Bool) (op1 op2 : Operand)
  | shr (bm : Bool) (op1 op2 : Operand)
  | sar (bm : Bool) (op1 op2 : Operand)
  | neg (bm : Bool) (op1 : Operand)
  | pusha
  | popa
  | pushf
  | popf
  | movzx (op1 op2 : Operand)
  | movsx (op1 op2 : Operand)
  | xchg (bm : Bool) (op1 op2 : Operand)
  | mul (bm : Bool) (op1 op2 : Operand)
  | div (bm : Bool) (op1 op2 : Operand)
  | adc (bm : Bool) (op1 op2 : Operand)
  | sbb (bm : Bool) (op1 op2 : Operand)
  | print
  -- the pseudo-opcode and its arguments, 47_fvm_control.md R390 to R398
  | standard (kind : StdKind)
  | nativeE8
  | nativeE8E9
  | nativeItanium
  | nativeDelta
  | nativeRgb
  | nativeAudio
  | nativeUpcase
  -- operand forms, 30_encoding.md R116; bm is the width the operand is taken with
  | operandReg (bm : Bool) (r : Fin 8)
  | operandImm (bm : Bool) (d : Word)
  | operandRegmem0 (bm : Bool) (r : Fin 8)
  | operandRegmemB (bm : Bool) (r : Fin 8) (b : Word)
  | operandAbsmem (bm : Bool) (b : Word)
  -- forms of the variable-length number, 30_encoding.md R112
  | vnum00 (x : BitVec 4)
  | vnum01 (h l : BitVec 4)
  | vnum01h0 (x : BitVec 8)
  | vnum10 (x : BitVec 16)
  | vnum11 (x : BitVec 32)
  -- symbols of the main alphabet LD, 30_encoding.md R101
  | lit (b : Byte)
  | eob
  | filt
  | repl
  | repd0
  | repd1
  | repd2
  | repd3
  | short0
  | short1
  | short2
  | short3
  | short4
  | short5
  | short6
  | short7
  | match0
  | match1
  | match2
  | match3
  | match4
  | match5
  | match6
  | match7
  | match8
  | match9
  | match10
  | match11
  | match12
  | match13
  | match14
  | match15
  | match16
  | match17
  | match18
  | match19
  | match20
  | match21
  | match22
  | match23
  | match24
  | match25
  | match26
  | match27
  -- symbols of the meta-alphabet MD, 30_encoding.md R96 to R98
  | mdLen (s : BitVec 4)
  | mdRepPrev3
  | mdRepPrev11
  | mdRepZero3
  | mdRepZero11
  -- block header, 30_encoding.md R93; filter-control byte, 30_encoding.md R109
  | blockHeader
  | filterControlByte (fb : Byte)
  -- unit operations: 40_bitcursor.md, 41_huffman.md, 42_window.md, 43_unpack_engine.md, 44_fvm_program.md
  | bcPeek (n : Fin 33)
  | bcRead (n : Fin 33)
  | bcAlign
  | bcReadBytes (n : Word)
  | htbBuild (t : TableId) (len : List (BitVec 4))
  | sdDecode (t : TableId)
  | swbPut (b : Byte)
  | swbCopy (len dist : Word)
  | ringInsert (d : Word)
  | ringSelect (k : Fin 4)
  | setLast (len dist : Word)
  | ueDrain
  | ueApply (inst : FilterInstance)
  | fvmCompile (code : List Byte)
  | fvmExec (inst : FilterInstance) (d : List Byte)
  deriving DecidableEq, Repr

end Sys2Proof
end

