-- ==== Sys2Proof/WellFormed.lean ====
section
/-! DEFINITION. Which terms of `Instr` are instructions of CORE: the bounds that the encodings and the operations' own
operand lines give, as checks. -/

namespace Sys2Proof

/-- The FVM commands: the entries a compiled program may hold (30_encoding.md R113, R125). -/
def Instr.isCommand : Instr → Bool
  | .mov .. | .cmp .. | .add .. | .sub .. | .jz .. | .jnz .. | .inc .. | .dec .. | .jmp .. | .bxor .. | .band ..
  | .bor .. | .test .. | .js .. | .jns .. | .jb .. | .jbe .. | .ja .. | .jae .. | .push .. | .pop .. | .call .. | .ret
  | .bnot .. | .shl .. | .shr .. | .sar .. | .neg .. | .pusha | .popa | .pushf | .popf | .movzx .. | .movsx ..
  | .xchg .. | .mul .. | .div .. | .adc .. | .sbb .. | .print | .standard .. => true
  | _ => false

/-- The commands a blob can encode: all but STANDARD (30_encoding.md R125). -/
def Instr.isEncodable : Instr → Bool
  | .standard .. => false
  | i => i.isCommand

/-- A byte-mode immediate is an 8-bit field (30_encoding.md R117). -/
def Operand.wf (bm : Bool) : Operand → Bool
  | .imm d => !bm || decide (d.toNat ≤ 255)
  | _ => true

/-- Field `h` of the second form is not zero: with `h = 0` the bits are the third form (30_encoding.md R112). -/
def VnumForm.wf : VnumForm → Bool
  | .f01 h _ => h != 0
  | _ => true

/-- Bounds of a FilterInstance (43_unpack_engine.md R253, R255). -/
def FilterInstance.wf (i : FilterInstance) : Bool :=
  decide (i.blockLength.toNat ≤ 0x3C000) && decide (i.userData.length ≤ 0x1FC0)

/-- The well-formed instructions. -/
def Instr.wf : Instr → Bool
  | .mov bm a b | .cmp bm a b | .add bm a b | .sub bm a b | .bxor bm a b | .band bm a b | .bor bm a b | .test bm a b
  | .shl bm a b | .shr bm a b | .sar bm a b | .xchg bm a b | .mul bm a b | .div bm a b | .adc bm a b | .sbb bm a b =>
    a.wf bm && b.wf bm
  | .inc bm a | .dec bm a | .bnot bm a | .neg bm a => a.wf bm
  | .operandImm bm d => (Operand.imm d).wf bm
  | .vnum01 h l => (VnumForm.f01 h l).wf
  | .ueApply i => i.wf
  | .fvmExec i d => i.wf && decide (d.length = i.blockLength.toNat)
  | .fvmCompile code => decide (1 ≤ code.length) && decide (code.length ≤ 0xFFFF)
  | _ => true

end Sys2Proof
end

