-- ==== Sys2Proof/Decode.lean ====
section
/-! DEFINITION. The encodings of 30_encoding.md: the cursors' fields, the variable-length number, operands, FVM commands,
the symbol maps of the stream, and after the decoders their encoders. The Huffman code words of the symbols are transmitted
per block; their canonical assignment stands in Machine/Huffman.lean. -/

namespace Sys2Proof

/-- The bits of a byte in stream order, bit 0 first (00_scope.md R12). -/
def byteBits (b : Byte) : List Bool :=
  [b.getLsbD 0, b.getLsbD 1, b.getLsbD 2, b.getLsbD 3, b.getLsbD 4, b.getLsbD 5, b.getLsbD 6, b.getLsbD 7]

/-- The bits of a byte string in stream order (00_scope.md R12). -/
def bytesBits (bs : List Byte) : List Bool := bs.flatMap byteBits

/-- The `n`-bit field at the head of a bit string, its first bit most significant, a missing bit 0
(00_scope.md R13, 40_bitcursor.md R142, 44_fvm_program.md R282). -/
def fieldZ : Nat → List Bool → Nat
  | 0, _ => 0
  | _ + 1, [] => 0
  | n + 1, b :: bs => b.toNat * 2 ^ n + fieldZ n bs

/-- The bits of an `n`-bit field of value `v`, most significant first (00_scope.md R13). -/
def fieldBits : Nat → Nat → List Bool
  | 0, _ => []
  | n + 1, v => (v / 2 ^ n % 2 == 1) :: fieldBits n v

/-- A bit string packed into bytes, bit `k` in bit `k mod 8` of byte `k div 8`, closed with zero bits. -/
def packBits : Nat → List Bool → List Byte
  | 0, _ => []
  | n + 1, bits => BitVec.ofNat 8 (fieldZ 8 ((bits ++ List.replicate 8 false).take 8).reverse) :: packBits n (bits.drop 8)

/-- The zero-filled cursor `PB` over a program blob: the bits not yet read (44_fvm_program.md R282). -/
abbrev Pb := StateM (List Bool)

/-- `PB.read(n)`: never raises (44_fvm_program.md R282). -/
def pbRead (n : Nat) : Pb Nat := fun bits => (fieldZ n bits, bits.drop n)

/-- The strict cursor `RB` over a filter record; `none` is `raise CorruptStream` (43_unpack_engine.md R244). -/
abbrev Rb := StateT (List Bool) Option

/-- `RB.read(n)`: fails when fewer than `n` bits are left (43_unpack_engine.md R244). -/
def rbRead (n : Nat) : Rb Nat := fun bits => if n ≤ bits.length then some (fieldZ n bits, bits.drop n) else none

/-- `count` fields of 8 bits read one after another with `rd`. -/
def readBytesWith {m : Type → Type} [Monad m] (rd : Nat → m Nat) : Nat → m (List Byte)
  | 0 => pure []
  | n + 1 => do
    let b ← rd 8
    let bs ← readBytesWith rd n
    pure (BitVec.ofNat 8 b :: bs)

/-- `VNUM(c)`: the form found at a cursor `c` whose reads are `rd` (30_encoding.md R112). -/
def decodeVnumForm {m : Type → Type} [Monad m] (rd : Nat → m Nat) : m VnumForm := do
  let t ← rd 2
  if t = 0 then
    let x ← rd 4
    pure (.f00 (BitVec.ofNat 4 x))
  else if t = 1 then
    let h ← rd 4
    if h = 0 then
      let x ← rd 8
      pure (.f01h0 (BitVec.ofNat 8 x))
    else
      let l ← rd 4
      pure (.f01 (BitVec.ofNat 4 h) (BitVec.ofNat 4 l))
  else if t = 2 then
    let x ← rd 16
    pure (.f10 (BitVec.ofNat 16 x))
  else
    let x ← rd 32
    pure (.f11 (BitVec.ofNat 32 x))

/-- The `u32` a number's form stands for (30_encoding.md R112). -/
def VnumForm.value : VnumForm → Word
  | .f00 x => BitVec.ofNat 32 x.toNat
  | .f01 h l => BitVec.ofNat 32 (16 * h.toNat + l.toNat)
  | .f01h0 x => BitVec.ofNat 32 (0xFFFFFF00 + x.toNat)
  | .f10 x => BitVec.ofNat 32 x.toNat
  | .f11 x => x

/-- The value of `VNUM(c)`. -/
def decodeVnum {m : Type → Type} [Monad m] (rd : Nat → m Nat) : m Word := do
  let f ← decodeVnumForm rd
  pure f.value

/-- One operand, taken with the width `bm` (30_encoding.md R116, R117). -/
def decodeOperand (bm : Bool) : Pb Operand := do
  if (← pbRead 1) = 1 then
    let r ← pbRead 3
    pure (.reg (Fin.ofNat 8 r))
  else if (← pbRead 1) = 0 then
    if bm then
      let d ← pbRead 8
      pure (.imm (BitVec.ofNat 32 d))
    else
      let d ← decodeVnum pbRead
      pure (.imm d)
  else if (← pbRead 1) = 0 then
    let r ← pbRead 3
    pure (.regmem0 (Fin.ofNat 8 r))
  else if (← pbRead 1) = 0 then
    let r ← pbRead 3
    let b ← decodeVnum pbRead
    pure (.regmemB (Fin.ofNat 8 r) b)
  else
    let b ← decodeVnum pbRead
    pure (.absmem b)

/-- A command of format `F2` with a `bm` bit (30_encoding.md R114). -/
def decodeF2B (mk : Bool → Operand → Operand → Instr) : Pb Instr := do
  let bm := (← pbRead 1) = 1
  let a ← decodeOperand bm
  let b ← decodeOperand bm
  pure (mk bm a b)

/-- A command of format `F1` with a `bm` bit. -/
def decodeF1B (mk : Bool → Operand → Instr) : Pb Instr := do
  let bm := (← pbRead 1) = 1
  let a ← decodeOperand bm
  pure (mk bm a)

/-- A command of format `F2` without a `bm` bit: decoded with `byte_mode` = 0. -/
def decodeF2 (mk : Operand → Operand → Instr) : Pb Instr := do
  let a ← decodeOperand false
  let b ← decodeOperand false
  pure (mk a b)

/-- A command of format `F1` or `FJ` without a `bm` bit. -/
def decodeF1 (mk : Operand → Instr) : Pb Instr := do
  let a ← decodeOperand false
  pure (mk a)

/-- The opcode number from its `esc` bit and its `op3` or `op5` field (30_encoding.md R114). -/
def decodeOpcode : Pb Nat := do
  if (← pbRead 1) = 0 then pbRead 3
  else
    let op5 ← pbRead 5
    pure (op5 + 8)

/-- The command with a given opcode number (30_encoding.md R113). `decodeOpcode` gives 0 to 39 only: the last arm is 39. -/
def decodeBody : Nat → Pb Instr
  | 0 => decodeF2B .mov
  | 1 => decodeF2B .cmp
  | 2 => decodeF2B .add
  | 3 => decodeF2B .sub
  | 4 => decodeF1 .jz
  | 5 => decodeF1 .jnz
  | 6 => decodeF1B .inc
  | 7 => decodeF1B .dec
  | 8 => decodeF1 .jmp
  | 9 => decodeF2B .bxor
  | 10 => decodeF2B .band
  | 11 => decodeF2B .bor
  | 12 => decodeF2B .test
  | 13 => decodeF1 .js
  | 14 => decodeF1 .jns
  | 15 => decodeF1 .jb
  | 16 => decodeF1 .jbe
  | 17 => decodeF1 .ja
  | 18 => decodeF1 .jae
  | 19 => decodeF1 .push
  | 20 => decodeF1 .pop
  | 21 => decodeF1 .call
  | 22 => pure .ret
  | 23 => decodeF1B .bnot
  | 24 => decodeF2B .shl
  | 25 => decodeF2B .shr
  | 26 => decodeF2B .sar
  | 27 => decodeF1B .neg
  | 28 => pure .pusha
  | 29 => pure .popa
  | 30 => pure .pushf
  | 31 => pure .popf
  | 32 => decodeF2 .movzx
  | 33 => decodeF2 .movsx
  | 34 => decodeF2B .xchg
  | 35 => decodeF2B .mul
  | 36 => decodeF2B .div
  | 37 => decodeF2B .adc
  | 38 => decodeF2B .sbb
  | _ => pure .print

/-- One command, before rule R118 rewrites a jump's immediate (30_encoding.md R114). Every bit string is a command
followed by the rest (30_encoding.md R122). -/
def decodeCommand : Pb Instr := do
  let op ← decodeOpcode
  decodeBody op

/-- The absolute index a jump's encoded displacement stands for, at command index `idx` (30_encoding.md R118). -/
def jumpTarget (idx : Nat) (d : Word) : Word :=
  if d.toInt ≥ 256 then d - 256
  else if d.toInt ≥ 136 then BitVec.ofNat 32 idx + d - 264
  else if d.toInt ≥ 16 then BitVec.ofNat 32 idx + d - 8
  else if d.toInt ≥ 8 then BitVec.ofNat 32 idx + d - 16
  else BitVec.ofNat 32 idx + d

/-- Rule R118 on an operand: only an immediate is rewritten. -/
def rewriteTarget (idx : Nat) : Operand → Operand
  | .imm d => .imm (jumpTarget idx d)
  | op => op

/-- Rule R118 on a command: only the commands of kind J are rewritten. -/
def rewriteJump (idx : Nat) : Instr → Instr
  | .jz op => .jz (rewriteTarget idx op)
  | .jnz op => .jnz (rewriteTarget idx op)
  | .jmp op => .jmp (rewriteTarget idx op)
  | .js op => .js (rewriteTarget idx op)
  | .jns op => .jns (rewriteTarget idx op)
  | .jb op => .jb (rewriteTarget idx op)
  | .jbe op => .jbe (rewriteTarget idx op)
  | .ja op => .ja (rewriteTarget idx op)
  | .jae op => .jae (rewriteTarget idx op)
  | .call op => .call (rewriteTarget idx op)
  | i => i

/-- Why a symbol number is refused: it lies outside its alphabet. -/
inductive DecodeError where
  | noLdSymbol (s : Nat)
  | noMdSymbol (s : Nat)
  deriving DecidableEq, Repr

/-- The instructions of LD symbols 256 to 298 in order (30_encoding.md R101). -/
def ldRows : List Instr :=
  [.eob, .filt, .repl, .repd0, .repd1, .repd2, .repd3,
   .short0, .short1, .short2, .short3, .short4, .short5, .short6, .short7] ++
  [.match0, .match1, .match2, .match3, .match4, .match5, .match6, .match7, .match8, .match9, .match10, .match11, .match12, .match13] ++
  [.match14, .match15, .match16, .match17, .match18, .match19, .match20, .match21, .match22, .match23, .match24, .match25, .match26, .match27]

/-- The instructions of MD symbols 16 to 19 in order (30_encoding.md R97, R98). -/
def mdRows : List Instr := [.mdRepPrev3, .mdRepPrev11, .mdRepZero3, .mdRepZero11]

/-- The instruction of an LD symbol (30_encoding.md R101). -/
def ldInstr (s : Nat) : Except DecodeError Instr :=
  if s < 256 then .ok (.lit (BitVec.ofNat 8 s))
  else match ldRows[s - 256]? with
    | some i => .ok i
    | none => .error (.noLdSymbol s)

/-- The instruction of an MD symbol (30_encoding.md R95 to R98). -/
def mdInstr (s : Nat) : Except DecodeError Instr :=
  if s < 16 then .ok (.mdLen (BitVec.ofNat 4 s))
  else match mdRows[s - 16]? with
    | some i => .ok i
    | none => .error (.noMdSymbol s)

/-- The stream bits of a table word. The table gives a command's opcode bits as one number, the first stream bit most
significant (its note on `prefix`): 6 bits when the sixth is set (`esc` = 1), else 4. The bits above are taken as the
stream bits that follow, in rising order; bits at and above `nbits` are 0. -/
def tableBits (nbits w : Nat) : List Bool :=
  if w / 32 % 2 = 1 then fieldBits 6 (w % 64) ++ (List.range (nbits - 6)).map fun k => w.testBit (6 + k)
  else fieldBits 4 (w % 16) ++ (List.range (nbits - 4)).map fun k => w.testBit (4 + k)

/-- The command read from a word numbered as spec/opcode_table.json numbers it, as the first command of a program
(entry 8). -/
def decodeTableWord (nbits w : Nat) : Option Instr :=
  if nbits = 0 then none
  else
    let i := (decodeCommand (tableBits nbits w)).1
    some (rewriteJump 0 i)

/-! ### Encoders -/

/-- The bits of a number's form (30_encoding.md R112). -/
def VnumForm.encode : VnumForm → List Bool
  | .f00 x => fieldBits 2 0 ++ fieldBits 4 x.toNat
  | .f01 h l => fieldBits 2 1 ++ (fieldBits 4 h.toNat ++ fieldBits 4 l.toNat)
  | .f01h0 x => fieldBits 2 1 ++ (fieldBits 4 0 ++ fieldBits 8 x.toNat)
  | .f10 x => fieldBits 2 2 ++ fieldBits 16 x.toNat
  | .f11 x => fieldBits 2 3 ++ fieldBits 32 x.toNat

/-- The shortest form of a value; encodings are not unique (30_encoding.md R112). -/
def VnumForm.ofWord (v : Word) : VnumForm :=
  if v.toNat < 16 then .f00 (BitVec.ofNat 4 v.toNat)
  else if v.toNat < 256 then .f01 (BitVec.ofNat 4 (v.toNat / 16)) (BitVec.ofNat 4 v.toNat)
  else if 0xFFFFFF00 ≤ v.toNat then .f01h0 (BitVec.ofNat 8 v.toNat)
  else if v.toNat < 65536 then .f10 (BitVec.ofNat 16 v.toNat)
  else .f11 v

/-- The bits of a number. -/
def encodeVnum (v : Word) : List Bool := (VnumForm.ofWord v).encode

/-- The bits of an operand taken with the width `bm` (30_encoding.md R116). -/
def encodeOperand (bm : Bool) : Operand → List Bool
  | .reg r => [true] ++ fieldBits 3 r.val
  | .imm d => [false, false] ++ (if bm then fieldBits 8 d.toNat else encodeVnum d)
  | .regmem0 r => [false, true, false] ++ fieldBits 3 r.val
  | .regmemB r b => [false, true, true, false] ++ (fieldBits 3 r.val ++ encodeVnum b)
  | .absmem b => [false, true, true, true] ++ encodeVnum b

/-- The `esc` bit and the opcode field (30_encoding.md R114). -/
def encodeOpcode (op : Nat) : List Bool :=
  if op < 8 then false :: fieldBits 3 op else true :: fieldBits 5 (op - 8)

/-- Opcode, `bm` bit and two operands. -/
def encodeF2B (op : Nat) (bm : Bool) (a b : Operand) : List Bool :=
  encodeOpcode op ++ (bm :: (encodeOperand bm a ++ encodeOperand bm b))

/-- Opcode, `bm` bit and one operand. -/
def encodeF1B (op : Nat) (bm : Bool) (a : Operand) : List Bool :=
  encodeOpcode op ++ (bm :: encodeOperand bm a)

/-- Opcode and two operands. -/
def encodeF2 (op : Nat) (a b : Operand) : List Bool :=
  encodeOpcode op ++ (encodeOperand false a ++ encodeOperand false b)

/-- Opcode and one operand. -/
def encodeF1 (op : Nat) (a : Operand) : List Bool := encodeOpcode op ++ encodeOperand false a

/-- The bits of an instruction that has an encoding of its own: an FVM command before rule R118, an operand form, a
number's form. `none`: STANDARD has no encoding (30_encoding.md R125), a stream symbol's code word is transmitted per
block, a unit operation is carried by no stream. -/
def encode : Instr → Option (List Bool)
  | .mov bm a b => some (encodeF2B 0 bm a b)
  | .cmp bm a b => some (encodeF2B 1 bm a b)
  | .add bm a b => some (encodeF2B 2 bm a b)
  | .sub bm a b => some (encodeF2B 3 bm a b)
  | .jz a => some (encodeF1 4 a)
  | .jnz a => some (encodeF1 5 a)
  | .inc bm a => some (encodeF1B 6 bm a)
  | .dec bm a => some (encodeF1B 7 bm a)
  | .jmp a => some (encodeF1 8 a)
  | .bxor bm a b => some (encodeF2B 9 bm a b)
  | .band bm a b => some (encodeF2B 10 bm a b)
  | .bor bm a b => some (encodeF2B 11 bm a b)
  | .test bm a b => some (encodeF2B 12 bm a b)
  | .js a => some (encodeF1 13 a)
  | .jns a => some (encodeF1 14 a)
  | .jb a => some (encodeF1 15 a)
  | .jbe a => some (encodeF1 16 a)
  | .ja a => some (encodeF1 17 a)
  | .jae a => some (encodeF1 18 a)
  | .push a => some (encodeF1 19 a)
  | .pop a => some (encodeF1 20 a)
  | .call a => some (encodeF1 21 a)
  | .ret => some (encodeOpcode 22)
  | .bnot bm a => some (encodeF1B 23 bm a)
  | .shl bm a b => some (encodeF2B 24 bm a b)
  | .shr bm a b => some (encodeF2B 25 bm a b)
  | .sar bm a b => some (encodeF2B 26 bm a b)
  | .neg bm a => some (encodeF1B 27 bm a)
  | .pusha => some (encodeOpcode 28)
  | .popa => some (encodeOpcode 29)
  | .pushf => some (encodeOpcode 30)
  | .popf => some (encodeOpcode 31)
  | .movzx a b => some (encodeF2 32 a b)
  | .movsx a b => some (encodeF2 33 a b)
  | .xchg bm a b => some (encodeF2B 34 bm a b)
  | .mul bm a b => some (encodeF2B 35 bm a b)
  | .div bm a b => some (encodeF2B 36 bm a b)
  | .adc bm a b => some (encodeF2B 37 bm a b)
  | .sbb bm a b => some (encodeF2B 38 bm a b)
  | .print => some (encodeOpcode 39)
  | .operandReg bm r => some (encodeOperand bm (.reg r))
  | .operandImm bm d => some (encodeOperand bm (.imm d))
  | .operandRegmem0 bm r => some (encodeOperand bm (.regmem0 r))
  | .operandRegmemB bm r b => some (encodeOperand bm (.regmemB r b))
  | .operandAbsmem bm b => some (encodeOperand bm (.absmem b))
  | .vnum00 x => some (VnumForm.f00 x).encode
  | .vnum01 h l => some (VnumForm.f01 h l).encode
  | .vnum01h0 x => some (VnumForm.f01h0 x).encode
  | .vnum10 x => some (VnumForm.f10 x).encode
  | .vnum11 x => some (VnumForm.f11 x).encode
  | _ => none

/-- The operand row an operand is an instance of. -/
def Operand.toInstr (bm : Bool) : Operand → Instr
  | .reg r => .operandReg bm r
  | .imm d => .operandImm bm d
  | .regmem0 r => .operandRegmem0 bm r
  | .regmemB r b => .operandRegmemB bm r b
  | .absmem b => .operandAbsmem bm b

/-- The number row a form is an instance of. -/
def VnumForm.toInstr : VnumForm → Instr
  | .f00 x => .vnum00 x
  | .f01 h l => .vnum01 h l
  | .f01h0 x => .vnum01h0 x
  | .f10 x => .vnum10 x
  | .f11 x => .vnum11 x

/-- The LD symbol of an instruction of that alphabet (30_encoding.md R101). -/
def ldSymbol : Instr → Option Nat
  | .lit b => some b.toNat
  | i => (ldRows.findIdx? (· == i)).map (· + 256)

/-- The MD symbol of an instruction of that alphabet (30_encoding.md R95 to R98). -/
def mdSymbol : Instr → Option Nat
  | .mdLen s => some s.toNat
  | i => (mdRows.findIdx? (· == i)).map (· + 16)

end Sys2Proof
end

