-- ==== Sys2Proof/Machine/Params.lean ====
section
/-! DEFINITION. The numbers of CORE: default values of the OPEN parameters (92_eei_decisions.md), the geometry of the FVM
memory (00_scope.md R9), and the fixed tables of the stream (30_encoding.md R102 to R104, R120). -/

namespace Sys2Proof.Machine

/-- `STD_SIGNATURES` (30_encoding.md R120). -/
def defaultSignatures : List Signature :=
  [⟨.e8, 53, 0xAD576887⟩, ⟨.e8e9, 57, 0x3CD7E57E⟩, ⟨.itanium, 120, 0x3769893F⟩, ⟨.delta, 29, 0x0E06077D⟩,
   ⟨.rgb, 149, 0x1C2C5DC8⟩, ⟨.audio, 216, 0xBC85E701⟩, ⟨.upcase, 40, 0x46B9C560⟩]

/-- The parameters at their stated defaults (00_scope.md R9, 92_eei_decisions.md). -/
def defaultConfig : Config :=
  { histMax := 0x400000, filtMax := 1024, fvmMaxOps := 25000000, signatures := defaultSignatures,
    native := .default }

/-- `VM_MEMSIZE`. -/
def vmMemSize : Nat := 0x40000
/-- `VM_GLOBAL`. -/
def vmGlobal : Nat := 0x3C000
/-- `VM_GLOBALSIZE`. -/
def vmGlobalSize : Nat := 0x2000
/-- `VM_FIXEDGLOBAL`. -/
def vmFixedGlobal : Nat := 0x40

/-- The word of the global sub-region that holds the size of the filtered data (20_memory.md R68). -/
def vmSizeWord : Word := 0x3C01C
/-- The word of the global sub-region that holds the position of the filtered data (20_memory.md R68). -/
def vmPosWord : Word := 0x3C020

/-- `LBASE` (30_encoding.md R102). -/
def lbaseTable : List Nat :=
  [0, 1, 2, 3, 4, 5, 6, 7, 8, 10, 12, 14, 16, 20, 24, 28, 32, 40, 48, 56, 64, 80, 96, 112, 128, 160, 192, 224]

/-- `LBITS` (30_encoding.md R102). -/
def lbitsTable : List Nat := [0, 0, 0, 0, 0, 0, 0, 0, 1, 1, 1, 1, 2, 2, 2, 2, 3, 3, 3, 3, 4, 4, 4, 4, 5, 5, 5, 5]

/-- `DBASE` (30_encoding.md R103). -/
def dbaseTable : List Nat :=
  [0, 1, 2, 3, 4, 6, 8, 12, 16, 24, 32, 48, 64, 96, 128, 192, 256, 384, 512, 768, 1024, 1536, 2048, 3072, 4096, 6144,
   8192, 12288, 16384, 24576, 32768, 49152, 65536, 98304, 131072, 196608] ++
  [262144, 327680, 393216, 458752, 524288, 589824, 655360, 720896, 786432, 851968, 917504, 983040, 1048576, 1310720,
   1572864, 1835008, 2097152, 2359296, 2621440, 2883584, 3145728, 3407872, 3670016, 3932160]

/-- `DBITS` (30_encoding.md R103). -/
def dbitsTable : List Nat :=
  [0, 0, 0, 0, 1, 1, 2, 2, 3, 3, 4, 4, 5, 5, 6, 6, 7, 7, 8, 8, 9, 9, 10, 10, 11, 11, 12, 12, 13, 13, 14, 14, 15, 15,
   16, 16] ++
  [16, 16, 16, 16, 16, 16, 16, 16, 16, 16, 16, 16, 18, 18, 18, 18, 18, 18, 18, 18, 18, 18, 18, 18]

/-- `SDBASE` (30_encoding.md R104). -/
def sdbaseTable : List Nat := [0, 4, 8, 16, 32, 64, 128, 192]

/-- `SDBITS` (30_encoding.md R104). -/
def sdbitsTable : List Nat := [2, 2, 3, 4, 5, 6, 6, 6]

/-- `LBASE[q]`. -/
def lbase (q : Nat) : Nat := lbaseTable.getD q 0
/-- `LBITS[q]`. -/
def lbits (q : Nat) : Nat := lbitsTable.getD q 0
/-- `DBASE[d]`. -/
def dbase (d : Nat) : Nat := dbaseTable.getD d 0
/-- `DBITS[d]`. -/
def dbits (d : Nat) : Nat := dbitsTable.getD d 0
/-- `SDBASE[j]`. -/
def sdbase (j : Nat) : Nat := sdbaseTable.getD j 0
/-- `SDBITS[j]`. -/
def sdbits (j : Nat) : Nat := sdbitsTable.getD j 0

end Sys2Proof.Machine
end

