-- ==== Sys2Proof/Machine/State.lean ====
section
/-! DEFINITION. The state of CORE (10_state.md R20), grouped by unit, and the machine right after power-on. -/

namespace Sys2Proof.Machine

/-- A byte memory: address and byte pairs, addresses strictly rising, no byte equal to `memDefault`. -/
abbrev Memory := List Host.Cell

/-- What an unlisted address of a memory reads as (entry 5). -/
def memDefault : Byte := 0

/-- A memory is in its canonical form: addresses strictly rise from `lo` on, and no listed byte is `memDefault`. -/
def Memory.wfFrom : Nat → Memory → Bool
  | _, [] => true
  | lo, (a, b) :: m => decide (lo ≤ a) && (b != memDefault) && Memory.wfFrom (a + 1) m

/-- The canonical form of a memory. -/
def Memory.wf (m : Memory) : Bool := Memory.wfFrom 0 m

/-- The six error kinds (60_exceptions.md R410, R411). -/
inductive ErrKind where
  | truncated | invalidTable | corruptStream | unsupportedMethod | filterOverrun | invalidHeader
  deriving DecidableEq, Repr

/-- The code `ERR_KIND` takes (60_exceptions.md R411). -/
def ErrKind.code : ErrKind → BitVec 8
  | .truncated => 1
  | .invalidTable => 2
  | .corruptStream => 3
  | .unsupportedMethod => 4
  | .filterOverrun => 5
  | .invalidHeader => 6

/-- Where the model stops though the spec's own rules never lead there (entry 16). Each is safe: no state a session can
reach raises one. -/
inductive Fault where
  /-- An instance names a program that is not in the registry. Raised by UE.APPLY, UE.DRAIN, FVM.EXEC and by the step of a
  running filter. Safe. -/
  | noSuchProgram
  /-- A program holds an entry that is no FVM command. Raised by the run of a filter program. Safe. -/
  | notACommand
  /-- A copy-in reaches window bytes that have no value (10_state.md R39, 42_window.md R194). Raised by UE.APPLY on an instance
  whose range is not produced. Safe. -/
  | noWindowValue
  deriving DecidableEq, Repr

/-- What the model gives no meaning to. -/
inductive Refusal where
  /-- An instruction of the table that has no meaning yet. Raised by an arm of `exec`. Safe. -/
  | notModelled (mnemonic : String)
  /-- A session with `METHOD` = 2 (43_unpack_engine.md R217). Raised by the start of a session. Safe. -/
  | methodV20
  /-- A host read of `OUT` while `STATUS` is not DONE, or after the next `CTRL.START` (10_state.md R29,
  70_reset_and_hazards.md R447). Raised by the host's read. Safe. -/
  | outNotExposed
  /-- A host write of an argument, the payload or the history while a session runs (70_reset_and_hazards.md R445). Raised by
  the host's writes. Safe. -/
  | hostBusy
  /-- A payload or a history above `SIZE_MAX` (70_reset_and_hazards.md R444). Raised by the host's writes. Safe. -/
  | aboveSizeMax
  deriving DecidableEq, Repr

/-- `STATUS` (10_state.md R31). -/
inductive Status where
  | idle | busy | done | error
  deriving DecidableEq, Repr

/-- The two bits of `STATUS` (10_state.md R31). -/
def Status.code : Status → BitVec 2
  | .idle => 0
  | .busy => 1
  | .done => 2
  | .error => 3

/-- `ue_state` (10_state.md R25), the states that last for one symbol folded into `decodingSymbols`
(43_unpack_engine.md R215, entry 13). -/
inductive UeState where
  | idle | stored | readingTables | decodingSymbols | applyFilter | done | failed
  deriving DecidableEq, Repr

/-- The place inside a block header: before it, or among the 404 transmitted lengths (the model's own, entry 1). -/
inductive HeaderPhase where
  | start | lengths
  deriving DecidableEq, Repr

/-- A HuffmanTable (10_state.md R33): `decodeLen` and `decodePos` have 16 entries; `decodeNum` holds its `nUsed` entries
that have a value. -/
structure HuffTable where
  decodeLen : List Nat
  decodePos : List Nat
  decodeNum : List Nat
  nUsed : Nat
  deriving DecidableEq, Repr

/-- The empty table (10_state.md R35). -/
def HuffTable.empty : HuffTable :=
  { decodeLen := List.replicate 16 0, decodePos := List.replicate 16 0, decodeNum := [], nUsed := 0 }

/-- The host's registers and memories (10_state.md R26 to R31). -/
structure HostPort where
  /-- `METHOD` (R26). -/
  method : BitVec 8
  /-- `UNPACKED_SIZE` (R27). -/
  unpackedSize : Word
  /-- `PLEN` (R28). -/
  plen : Word
  /-- `PAYLOAD` (R28). -/
  payload : Memory
  /-- `HLEN` (R30). -/
  hlen : Word
  /-- `HIST` (R30). -/
  hist : Memory
  /-- A write of 1 to `CTRL.START` that CORE has not yet taken (R31, entry 10). -/
  ctrlStart : Bool
  /-- `STATUS` (R31). -/
  status : Status
  /-- `ERR_KIND` (R31). -/
  errKind : BitVec 8
  /-- `PROGRESS` (R31). -/
  progress : Word
  deriving DecidableEq, Repr

/-- The BitCursor (10_state.md R32). -/
structure BitCursor where
  byte : Word
  bit : BitVec 3
  deriving DecidableEq, Repr

/-- The five tables and `tables_valid` (10_state.md R34, R35). -/
structure Tables where
  ld : HuffTable
  dd : HuffTable
  ldd : HuffTable
  rd : HuffTable
  md : HuffTable
  valid : Bool
  deriving DecidableEq, Repr

/-- `last_len` and `last_dist` (10_state.md R37). -/
structure LastMatch where
  len : Word
  dist : Word
  deriving DecidableEq, Repr

/-- `prev_low_dist` and `low_rep` (10_state.md R38). -/
structure LowDist where
  prev : BitVec 4
  rep : BitVec 4
  deriving DecidableEq, Repr

/-- The sliding window: `W` and `wptr` (10_state.md R39). -/
structure Window where
  mem : Memory
  wptr : Word
  deriving DecidableEq, Repr

/-- A FilterProgram (10_state.md R40); `cmd_count` is the length of `cmds`. -/
structure FilterProgram where
  cmds : List Instr
  staticData : List Byte
  deriving DecidableEq, Repr

/-- An entry of the filter registry (10_state.md R41). -/
structure RegEntry where
  prog : FilterProgram
  execCount : Word
  lastBlockLength : Word
  deriving DecidableEq, Repr

/-- The FilterVM (10_state.md R46). `ended` notes that the last command's rule said "end" (44_fvm_program.md R289; the
model's own, entry 1). -/
structure Fvm where
  regs : Vector Word 8
  flags : Word
  ip : Word
  mem : Memory
  ops : Nat
  ended : Bool
  deriving DecidableEq, Repr

/-- What an instruction that returns a result leaves on the unit's result port (the model's own, entry 3). -/
inductive UnitResult where
  | none
  /-- A field value or a `u32`. -/
  | word (v : Word)
  /-- A byte string. -/
  | bytes (bs : List Byte)
  /-- A decoded symbol. -/
  | symbol (n : Nat)
  /-- An evaluated operand: its effective address, where its form has one, and its value. -/
  | operand (ea : Option Word) (v : Word)
  /-- A compiled program. -/
  | program (p : FilterProgram)
  deriving DecidableEq, Repr

/-- The state of CORE (10_state.md R20). -/
structure State where
  /-- The parameters of the machine; no step changes them (entry 6). -/
  cfg : Config
  host : HostPort
  bc : BitCursor
  tables : Tables
  /-- `ring[0..3]`, most recent first (R36). -/
  ring : Vector Word 4
  last : LastMatch
  low : LowDist
  swb : Window
  /-- `reg`, in the order of definition (R41). -/
  registry : List RegEntry
  /-- `last_filter` (R42). -/
  lastFilter : Word
  /-- `pend`, head first (R44). -/
  pend : List FilterInstance
  /-- `ue_state` (R25). -/
  ue : UeState
  /-- The state Drain was called from (43_unpack_engine.md R262; the model's own, entry 1). -/
  ret : UeState
  hdr : HeaderPhase
  /-- `lens[0 .. i)` (R45). -/
  lens : List (BitVec 4)
  fvm : Fvm
  port : UnitResult
  deriving DecidableEq, Repr

/-- The machine after power-on (10_state.md R53): STATUS IDLE, ERR_KIND 0, PROGRESS 0, ue_state Idle; every other value is
the model's (entry 4). -/
def State.reset : State :=
  { cfg := defaultConfig
    host := { method := 0, unpackedSize := 0, plen := 0, payload := [], hlen := 0, hist := [], ctrlStart := false,
              status := .idle, errKind := 0, progress := 0 }
    bc := { byte := 0, bit := 0 }
    tables := { ld := .empty, dd := .empty, ldd := .empty, rd := .empty, md := .empty, valid := false }
    ring := #v[0, 0, 0, 0]
    last := { len := 0, dist := 0 }
    low := { prev := 0, rep := 0 }
    swb := { mem := [], wptr := 0 }
    registry := []
    lastFilter := 0
    pend := []
    ue := .idle
    ret := .idle
    hdr := .start
    lens := []
    fvm := { regs := #v[0, 0, 0, 0, 0, 0, 0, 0], flags := 0, ip := 0, mem := [], ops := 0, ended := false }
    port := .none }

end Sys2Proof.Machine
end

