-- ==== Sys2Proof/Machine/Ops.lean ====
section
/-! DEFINITION. The named operations over memories, FVM registers and the error model: byte memories, FVM memory accesses
(20_memory.md), raising a decode error (60_exceptions.md) and the session start that alone leaves it (10_state.md). -/

namespace Sys2Proof.Machine

/-! ### Byte memories -/

/-- The byte at an address. -/
def Memory.read : Memory → Nat → Byte
  | [], _ => memDefault
  | (k, b) :: m, a => if a < k then memDefault else if a = k then b else Memory.read m a

/-- The memory with byte `v` at address `a`, in canonical form. -/
def Memory.write : Memory → Nat → Byte → Memory
  | [], a, v => if v = memDefault then [] else [(a, v)]
  | (k, b) :: m, a, v =>
    if a < k then (if v = memDefault then (k, b) :: m else (a, v) :: (k, b) :: m)
    else if a = k then (if v = memDefault then m else (a, v) :: m)
    else (k, b) :: Memory.write m a v

/-- The bytes `[a, a + n)`. -/
def Memory.readRange (m : Memory) (a : Nat) : Nat → List Byte
  | 0 => []
  | n + 1 => m.read a :: Memory.readRange m (a + 1) n

/-- The memory with a byte string stored from `a` on, in rising address order. -/
def Memory.writeRange (m : Memory) (a : Nat) : List Byte → Memory
  | [] => m
  | b :: bs => Memory.writeRange (m.write a b) (a + 1) bs

/-! ### FVM memory (20_memory.md R66, R72, R73) -/

/-- The byte of `Mem` an address designates: modulo 0x40000 (R66). -/
def memIndex (a : Word) : Nat := a.toNat % vmMemSize

/-- `MemRead(addr, 1)` (R72). -/
def memRead8 (m : Memory) (a : Word) : Byte := m.read (memIndex a)

/-- `MemRead(addr, 4)`: little-endian, each byte address reduced by itself (R72). -/
def memRead32 (m : Memory) (a : Word) : Word :=
  memRead8 m (a + 3) ++ memRead8 m (a + 2) ++ memRead8 m (a + 1) ++ memRead8 m a

/-- `MemWrite(addr, 1, v)` (R73). -/
def memWrite8 (m : Memory) (a : Word) (v : Byte) : Memory := m.write (memIndex a) v

/-- Byte `i` of a word, 0 the least significant (R63). -/
def wordByte (v : Word) (i : Nat) : Byte := v.extractLsb' (8 * i) 8

/-- `MemWrite(addr, 4, v)`: little-endian, each byte address reduced by itself, `i` = 0, 1, 2, 3 in that order (R73). -/
def memWrite32 (m : Memory) (a : Word) (v : Word) : Memory :=
  memWrite8 (memWrite8 (memWrite8 (memWrite8 m a (wordByte v 0)) (a + 1) (wordByte v 1)) (a + 2) (wordByte v 2)) (a + 3)
    (wordByte v 3)

/-- A byte string stored in `Mem` from `a` on. -/
def memWriteBytes (m : Memory) (a : Nat) : List Byte → Memory
  | [] => m
  | b :: bs => memWriteBytes (m.write (a % vmMemSize) b) (a + 1) bs

/-! ### FVM registers (10_state.md R22 to R24) -/

/-- `R[r]`. -/
def Fvm.reg (f : Fvm) (r : Fin 8) : Word := f.regs.get r
/-- `R[r] <- v`. -/
def Fvm.setReg (f : Fvm) (r : Fin 8) (v : Word) : Fvm := { f with regs := f.regs.set r v }
/-- `Mem <- m`. -/
def Fvm.setMem (f : Fvm) (m : Memory) : Fvm := { f with mem := m }
/-- `FLAGS <- v`. -/
def Fvm.setFlags (f : Fvm) (v : Word) : Fvm := { f with flags := v }
/-- `ip <- v`. -/
def Fvm.setIp (f : Fvm) (v : Word) : Fvm := { f with ip := v }
/-- `ip <- ip + 1` (44_fvm_program.md R294). -/
def Fvm.advance (f : Fvm) : Fvm := { f with ip := f.ip + 1 }
/-- "end" of 44_fvm_program.md R289. -/
def Fvm.finish (f : Fvm) : Fvm := { f with ended := true }
/-- `ops <- ops + 1`. -/
def Fvm.countOp (f : Fvm) : Fvm := { f with ops := f.ops + 1 }

/-! ### The error model (60_exceptions.md R410 to R419) -/

/-- `raise K` (R415): the session is over; `PROGRESS` and the history keep their values. What else remains is not
observable; the model keeps it (entry 14). -/
def State.raise (s : State) (k : ErrKind) : State :=
  { s with ue := .failed, host := { s.host with status := .error, errKind := k.code } }

/-- The session-start reset (10_state.md R52), all but `ue_state`: the only way on after an error (R419). It also takes the
pending `CTRL.START` and empties the header scratch (entries 1 and 10). -/
def State.sessionReset (s : State) : State :=
  { s with
    host := { s.host with ctrlStart := false, status := .busy, errKind := 0, progress := 0 }
    bc := { byte := 0, bit := 0 }
    tables := { ld := .empty, dd := .empty, ldd := .empty, rd := .empty, md := .empty, valid := false }
    ring := #v[0, 0, 0, 0]
    last := { len := 0, dist := 0 }
    low := { prev := 0, rep := 0 }
    swb := { mem := [], wptr := 0 }
    registry := []
    lastFilter := 0
    pend := []
    hdr := .start
    lens := [] }

/-! ### Operations that can stop -/

/-- Why an operation does not finish. -/
inductive Stop where
  /-- A decode error of the spec. -/
  | raise (k : ErrKind)
  /-- A fault of the model. -/
  | fault (r : Fault)
  /-- What the model gives no meaning to. -/
  | refuse (r : Refusal)
  deriving DecidableEq, Repr

/-- An operation on the state of CORE. -/
abbrev Op := EStateM Stop State

/-- An operation on the FVM alone: no other state is in its reach (20_memory.md R61). -/
abbrev FvmOp := EStateM ErrKind Fvm

/-- An FVM operation as an operation of CORE. -/
def liftFvm {α : Type} (m : FvmOp α) : Op α := fun s =>
  match m s.fvm with
  | .ok a f => .ok a { s with fvm := f }
  | .error k f => .error (.raise k) { s with fvm := f }

/-- The outcome of an operation: a decode error is a next state (60_exceptions.md R415). -/
def runOp (m : Op Unit) (s : State) : Host.Outcome State Fault Refusal :=
  match m s with
  | .ok _ t => .next t
  | .error (.raise k) t => .next (t.raise k)
  | .error (.fault r) _ => .fault r
  | .error (.refuse r) _ => .refused r

/-- The outcome of an FVM command. -/
def runFvm (m : FvmOp Unit) (s : State) : Host.Outcome State Fault Refusal := runOp (liftFvm m) s

/-- `raise K`. -/
def opRaise {α : Type} (k : ErrKind) : Op α := throw (.raise k)

/-- `raise CorruptStream` in an FVM command. -/
def fvmRaise {α : Type} (k : ErrKind) : FvmOp α := throw k

/-- An operation's result left on the result port (entry 3). -/
def latch (m : Op UnitResult) : Op Unit := do
  let r ← m
  modify fun s => { s with port := r }

end Sys2Proof.Machine
end

