-- ==== Sys2Proof/Machine/Operands.lean ====
section
/-! DEFINITION. FVM operand access: effective addresses, reads and writes (44_fvm_program.md R295 to R298). -/

namespace Sys2Proof.Machine

/-- `EA(op)`; 0 for the forms that use none (R295). -/
def Fvm.ea (f : Fvm) : Operand → Word
  | .reg _ => 0
  | .imm _ => 0
  | .regmem0 r => f.reg r
  | .regmemB r b => f.reg r + b
  | .absmem b => b

/-- Whether a form denotes memory. -/
def isMemForm : Operand → Bool
  | .regmem0 _ => true
  | .regmemB _ _ => true
  | .absmem _ => true
  | _ => false

/-- Whether a form is `IMM`. -/
def isImmForm : Operand → Bool
  | .imm _ => true
  | _ => false

/-- The memory a read of width `bm` at `ea` gives, zero-extended (R296). -/
def memReadW (m : Memory) (bm : Bool) (ea : Word) : Word :=
  if bm then (memRead8 m ea).setWidth 32 else memRead32 m ea

/-- `OpRead(op, bm)` with the address fixed before (R296). -/
def Fvm.opVal (f : Fvm) (op : Operand) (bm : Bool) (ea : Word) : Word :=
  match op with
  | .reg r => if bm then f.reg r &&& 0xFF else f.reg r
  | .imm d => if bm then d &&& 0xFF else d
  | _ => memReadW f.mem bm ea

/-- The register a write of width `bm` leaves: a byte write keeps bits 31 to 8 (R297). -/
def regMerge (bm : Bool) (old v : Word) : Word := if bm then (old &&& 0xFFFFFF00) ||| (v &&& 0xFF) else v

/-- The memory after a write of width `bm` at `ea` (R297). -/
def memWriteW (m : Memory) (bm : Bool) (ea v : Word) : Memory :=
  if bm then memWrite8 m ea (v.setWidth 8) else memWrite32 m ea v

/-- `OpWrite(op, bm, v)` on the forms that can be written (R297). -/
def Fvm.store (f : Fvm) (op : Operand) (bm : Bool) (ea v : Word) : Fvm :=
  match op with
  | .reg r => f.setReg r (regMerge bm (f.reg r) v)
  | .imm _ => f
  | _ => f.setMem (memWriteW f.mem bm ea v)

/-- `EA(op)`, read before anything changes (R295). -/
def eaOf (op : Operand) : FvmOp Word := do
  let f ← get
  pure (f.ea op)

/-- `OpRead(op, bm)`: the value of that moment, at the address fixed before (R296). -/
def opRead (op : Operand) (bm : Bool) (ea : Word) : FvmOp Word := do
  let f ← get
  pure (f.opVal op bm ea)

/-- `OpWrite(op, bm, v)`: an immediate cannot be written (R297, R298). -/
def opWrite (op : Operand) (bm : Bool) (ea v : Word) : FvmOp Unit :=
  if isImmForm op then fvmRaise .corruptStream else modify fun f => Fvm.store f op bm ea v

end Sys2Proof.Machine
end

