-- ==== Sys2Proof/Machine/Forms.lean ====
section
/-! DEFINITION. The operand and number rows of the table as instructions: what the form evaluates to is left on the result
port (30_encoding.md R112, R116; 44_fvm_program.md R295, R296; entry 24). -/

namespace Sys2Proof.Machine

/-- An operand evaluated: its effective address, where it denotes memory, and its value. -/
def evalOperand (bm : Bool) (op : Operand) (s : State) : State :=
  let ea := s.fvm.ea op
  { s with port := .operand (if isMemForm op then some ea else none) (s.fvm.opVal op bm ea) }

/-- A number's form evaluated. -/
def evalVnum (f : VnumForm) (s : State) : State := { s with port := .word f.value }

/-- OPERAND `REG(r)`. -/
def execOperandReg (bm : Bool) (r : Fin 8) (s : State) : Host.Outcome State Fault Refusal :=
  .next (evalOperand bm (.reg r) s)
/-- OPERAND `IMM(d)`. -/
def execOperandImm (bm : Bool) (d : Word) (s : State) : Host.Outcome State Fault Refusal :=
  .next (evalOperand bm (.imm d) s)
/-- OPERAND `REGMEM(r, 0)`. -/
def execOperandRegmem0 (bm : Bool) (r : Fin 8) (s : State) : Host.Outcome State Fault Refusal :=
  .next (evalOperand bm (.regmem0 r) s)
/-- OPERAND `REGMEM(r, b)`. -/
def execOperandRegmemB (bm : Bool) (r : Fin 8) (b : Word) (s : State) : Host.Outcome State Fault Refusal :=
  .next (evalOperand bm (.regmemB r b) s)
/-- OPERAND `ABSMEM(b)`. -/
def execOperandAbsmem (bm : Bool) (b : Word) (s : State) : Host.Outcome State Fault Refusal :=
  .next (evalOperand bm (.absmem b) s)

/-- VNUM form `00`. -/
def execVnum00 (x : BitVec 4) (s : State) : Host.Outcome State Fault Refusal := .next (evalVnum (.f00 x) s)
/-- VNUM form `01` with `h` not 0. With `h` = 0 the bits are the third form's (30_encoding.md R112). -/
def execVnum01 (h l : BitVec 4) (s : State) : Host.Outcome State Fault Refusal := .next (evalVnum (.f01 h l) s)
/-- VNUM form `01` with `h` = 0. -/
def execVnum01h0 (x : BitVec 8) (s : State) : Host.Outcome State Fault Refusal := .next (evalVnum (.f01h0 x) s)
/-- VNUM form `10`. -/
def execVnum10 (x : BitVec 16) (s : State) : Host.Outcome State Fault Refusal := .next (evalVnum (.f10 x) s)
/-- VNUM form `11`. -/
def execVnum11 (x : BitVec 32) (s : State) : Host.Outcome State Fault Refusal := .next (evalVnum (.f11 x) s)

end Sys2Proof.Machine
end

