-- ==== Sys2Proof/Machine/Flags.lean ====
section
/-! DEFINITION. The results and flag words of the FVM arithmetic (46_fvm_arith.md). Every flag word is whole: bits 2 to 30
are 0 (10_state.md R47). -/

namespace Sys2Proof.Machine

/-- `C` (10_state.md R47). -/
def flagC : Word := 0x00000001
/-- `Z`. -/
def flagZ : Word := 0x00000002
/-- `S`. -/
def flagS : Word := 0x80000000

/-- A carry as a flag word. -/
def carryFlag (c : Bool) : Word := if c then flagC else 0

/-- `ZS(r)` (46_fvm_arith.md, common definitions). -/
def flagsZS (r : Word) : Word := if r = 0 then flagZ else r &&& flagS

/-- A result reduced to 8 bits in byte mode. -/
def masked (bm : Bool) (r : Word) : Word := if bm then r &&& 0xFF else r

/-- Flags of CMP and SUB: `Z` alone, or borrow and bit 31 (R340, R342). -/
def flagsSub (v1 v2 : Word) : Word :=
  let r := v1 - v2
  if r = 0 then flagZ else carryFlag (v1 < r) ||| (r &&& flagS)

/-- Result of ADD (R341). -/
def addResult (bm : Bool) (v1 v2 : Word) : Word := masked bm (v1 + v2)

/-- Flags of ADD: in byte mode `S` is bit 7 (R341). -/
def flagsAdd (bm : Bool) (v1 v2 : Word) : Word :=
  let r := addResult bm v1 v2
  if bm then carryFlag (r < v1) ||| (if r = 0 then flagZ else if r &&& 0x80 = 0 then 0 else flagS)
  else carryFlag (r < v1) ||| flagsZS r

/-- Result of INC (R343). -/
def incResult (bm : Bool) (v1 : Word) : Word := masked bm (v1 + 1)

/-- Flags of NEG (R345). -/
def flagsNeg (v1 : Word) : Word :=
  let r := 0 - v1
  if r = 0 then flagZ else flagC ||| (r &&& flagS)

/-- `FLAGS & 1` as a number. -/
def carryIn (flags : Word) : Word := flags &&& 1

/-- Result of ADC (R348). -/
def adcResult (bm : Bool) (flags v1 v2 : Word) : Word := masked bm (v1 + v2 + carryIn flags)

/-- Flags of ADC (R348). -/
def flagsAdc (bm : Bool) (flags v1 v2 : Word) : Word :=
  let r := adcResult bm flags v1 v2
  carryFlag (r < v1 || (r == v1 && carryIn flags == 1)) ||| flagsZS r

/-- Result of SBB (R349). -/
def sbbResult (bm : Bool) (flags v1 v2 : Word) : Word := masked bm (v1 - v2 - carryIn flags)

/-- Flags of SBB (R349). -/
def flagsSbb (bm : Bool) (flags v1 v2 : Word) : Word :=
  let r := sbbResult bm flags v1 v2
  carryFlag (v1 < r || (r == v1 && carryIn flags == 1)) ||| flagsZS r

/-- `sh(x) = x mod 32` (46_fvm_arith.md section 3). -/
def shiftAmount (x : Word) : Nat := x.toNat % 32

/-- Result of SHL (R355). -/
def shlResult (v1 v2 : Word) : Word := v1 <<< shiftAmount v2

/-- Flags of SHL (R355). -/
def flagsShl (v1 v2 : Word) : Word := flagsZS (shlResult v1 v2) ||| ((v1 <<< shiftAmount (v2 - 1)) >>> 31)

/-- Result of SHR (R356). -/
def shrResult (v1 v2 : Word) : Word := v1 >>> shiftAmount v2

/-- The carry of SHR and SAR: the last bit shifted out (R356, R357). -/
def shrCarry (v1 v2 : Word) : Word := (v1 >>> shiftAmount (v2 - 1)) &&& 1

/-- Flags of SHR (R356). -/
def flagsShr (v1 v2 : Word) : Word := flagsZS (shrResult v1 v2) ||| shrCarry v1 v2

/-- Result of SAR (R357). -/
def sarResult (v1 v2 : Word) : Word := v1.sshiftRight (shiftAmount v2)

/-- Flags of SAR (R357). -/
def flagsSar (v1 v2 : Word) : Word := flagsZS (sarResult v1 v2) ||| shrCarry v1 v2

end Sys2Proof.Machine
end

