-- ==== Sys2Proof/Machine/FvmData.lean ====
section
/-! DEFINITION. FVM data movement and stack commands (45_fvm_data.md). A stack access is a 32-bit access at `R[7]`. -/

namespace Sys2Proof.Machine

/-- `R[r] <- v`. -/
def putReg (r : Fin 8) (v : Word) : FvmOp Unit := modify fun f => f.setReg r v

/-- `MemWrite(a, 4, v)`. -/
def putWord (a v : Word) : FvmOp Unit := modify fun f => f.setMem (memWrite32 f.mem a v)

/-- `ip <- ip + 1` (44_fvm_program.md R294). -/
def advanceIp : FvmOp Unit := modify Fvm.advance

/-- MOV (R320). -/
def opMov (bm : Bool) (op1 op2 : Operand) : FvmOp Unit := do
  let a1 ← eaOf op1
  let a2 ← eaOf op2
  let v ← opRead op2 bm a2
  opWrite op1 bm a1 v
  advanceIp

/-- MOVZX (R321). -/
def opMovzx (op1 op2 : Operand) : FvmOp Unit := do
  let a1 ← eaOf op1
  let a2 ← eaOf op2
  let v ← opRead op2 true a2
  opWrite op1 false a1 v
  advanceIp

/-- MOVSX (R322). -/
def opMovsx (op1 op2 : Operand) : FvmOp Unit := do
  let a1 ← eaOf op1
  let a2 ← eaOf op2
  let v ← opRead op2 true a2
  opWrite op1 false a1 ((v.setWidth 8).signExtend 32)
  advanceIp

/-- XCHG: read `op1`, write `op1`, write `op2` (R323). -/
def opXchg (bm : Bool) (op1 op2 : Operand) : FvmOp Unit := do
  let a1 ← eaOf op1
  let a2 ← eaOf op2
  let v1 ← opRead op1 bm a1
  let v2 ← opRead op2 bm a2
  opWrite op1 bm a1 v2
  opWrite op2 bm a2 v1
  advanceIp

/-- `R[7] <- R[7] - 4`, then the new `R[7]`. -/
def growStack : FvmOp Word := do
  let f ← get
  putReg 7 (f.reg 7 - 4)
  pure (f.reg 7 - 4)

/-- PUSH: the value is read after `R[7]` has changed (R324). -/
def opPush (op1 : Operand) : FvmOp Unit := do
  let a1 ← eaOf op1
  let sp ← growStack
  let v ← opRead op1 false a1
  putWord sp v
  advanceIp

/-- POP: the destination is written before 4 is added to `R[7]` (R325). -/
def opPop (op1 : Operand) : FvmOp Unit := do
  let a1 ← eaOf op1
  let f ← get
  opWrite op1 false a1 (memRead32 f.mem (f.reg 7))
  modify fun f => f.setReg 7 (f.reg 7 + 4)
  advanceIp

/-- The eight stores of PUSHA: `R[i]` at `sp - 4 - 4*i` (R326). -/
def pushaMem (f : Fvm) (sp : Word) (m : Memory) : Memory :=
  (List.finRange 8).foldl (fun m i => memWrite32 m (sp - 4 - 4 * BitVec.ofNat 32 i.val) (f.reg i)) m

/-- PUSHA (R326). -/
def opPusha : FvmOp Unit := do
  modify fun f => (f.setMem (pushaMem f (f.reg 7) f.mem)).setReg 7 (f.reg 7 - 32)
  advanceIp

/-- The registers POPA loads: `R[7-i]` from `sp + 4*i` (R327). -/
def popaRegs (m : Memory) (sp : Word) : Vector Word 8 :=
  Vector.ofFn fun r => memRead32 m (sp + 4 * BitVec.ofNat 32 (7 - r.val))

/-- POPA (R327). -/
def opPopa : FvmOp Unit := do
  modify fun f => { f with regs := popaRegs f.mem (f.reg 7) }
  advanceIp

/-- PUSHF (R328). -/
def opPushf : FvmOp Unit := do
  let sp ← growStack
  let f ← get
  putWord sp f.flags
  advanceIp

/-- POPF (R329). -/
def opPopf : FvmOp Unit := do
  modify fun f => (f.setFlags (memRead32 f.mem (f.reg 7))).setReg 7 (f.reg 7 + 4)
  advanceIp

/-- MOV as an instruction. -/
def execMov (bm : Bool) (op1 op2 : Operand) (s : State) : Host.Outcome State Fault Refusal := runFvm (opMov bm op1 op2) s
/-- MOVZX as an instruction. -/
def execMovzx (op1 op2 : Operand) (s : State) : Host.Outcome State Fault Refusal := runFvm (opMovzx op1 op2) s
/-- MOVSX as an instruction. -/
def execMovsx (op1 op2 : Operand) (s : State) : Host.Outcome State Fault Refusal := runFvm (opMovsx op1 op2) s
/-- XCHG as an instruction. -/
def execXchg (bm : Bool) (op1 op2 : Operand) (s : State) : Host.Outcome State Fault Refusal :=
  runFvm (opXchg bm op1 op2) s
/-- PUSH as an instruction. -/
def execPush (op1 : Operand) (s : State) : Host.Outcome State Fault Refusal := runFvm (opPush op1) s
/-- POP as an instruction. -/
def execPop (op1 : Operand) (s : State) : Host.Outcome State Fault Refusal := runFvm (opPop op1) s
/-- PUSHA as an instruction. -/
def execPusha (s : State) : Host.Outcome State Fault Refusal := runFvm opPusha s
/-- POPA as an instruction. -/
def execPopa (s : State) : Host.Outcome State Fault Refusal := runFvm opPopa s
/-- PUSHF as an instruction. -/
def execPushf (s : State) : Host.Outcome State Fault Refusal := runFvm opPushf s
/-- POPF as an instruction. -/
def execPopf (s : State) : Host.Outcome State Fault Refusal := runFvm opPopf s

end Sys2Proof.Machine
end

