-- ==== Sys2Proof/Machine/FvmArith.lean ====
section
/-! DEFINITION. FVM arithmetic, logic and shift commands (46_fvm_arith.md). -/

namespace Sys2Proof.Machine

/-- `FLAGS <- v`. -/
def putFlags (v : Word) : FvmOp Unit := modify fun f => f.setFlags v

/-- The common form of the two-operand commands that write: both operands read in order, then `FLAGS` from
`flags FLAGS v1 v2`, then the write of `result FLAGS v1 v2`. -/
def aluOp (bm : Bool) (op1 op2 : Operand) (result flags : Word → Word → Word → Word) : FvmOp Unit := do
  let a1 ← eaOf op1
  let a2 ← eaOf op2
  let v1 ← opRead op1 bm a1
  let v2 ← opRead op2 bm a2
  let f ← get
  putFlags (flags f.flags v1 v2)
  opWrite op1 bm a1 (result f.flags v1 v2)
  advanceIp

/-- The common form of the two-operand commands that only set `FLAGS`. -/
def compareOp (bm : Bool) (op1 op2 : Operand) (flags : Word → Word → Word) : FvmOp Unit := do
  let a1 ← eaOf op1
  let a2 ← eaOf op2
  let v1 ← opRead op1 bm a1
  let v2 ← opRead op2 bm a2
  putFlags (flags v1 v2)
  advanceIp

/-- CMP (R340). -/
def opCmp (bm : Bool) (op1 op2 : Operand) : FvmOp Unit := compareOp bm op1 op2 flagsSub

/-- ADD (R341). -/
def opAdd (bm : Bool) (op1 op2 : Operand) : FvmOp Unit :=
  aluOp bm op1 op2 (fun _ v1 v2 => addResult bm v1 v2) (fun _ v1 v2 => flagsAdd bm v1 v2)

/-- SUB (R342). -/
def opSub (bm : Bool) (op1 op2 : Operand) : FvmOp Unit :=
  aluOp bm op1 op2 (fun _ v1 v2 => v1 - v2) (fun _ v1 v2 => flagsSub v1 v2)

/-- INC: the write precedes the flags (R343). -/
def opInc (bm : Bool) (op1 : Operand) : FvmOp Unit := do
  let a1 ← eaOf op1
  let v1 ← opRead op1 bm a1
  opWrite op1 bm a1 (incResult bm v1)
  putFlags (flagsZS (incResult bm v1))
  advanceIp

/-- DEC: the write precedes the flags (R344). -/
def opDec (bm : Bool) (op1 : Operand) : FvmOp Unit := do
  let a1 ← eaOf op1
  let v1 ← opRead op1 bm a1
  opWrite op1 bm a1 (v1 - 1)
  putFlags (flagsZS (v1 - 1))
  advanceIp

/-- NEG (R345). -/
def opNeg (bm : Bool) (op1 : Operand) : FvmOp Unit := do
  let a1 ← eaOf op1
  let v1 ← opRead op1 bm a1
  putFlags (flagsNeg v1)
  opWrite op1 bm a1 (0 - v1)
  advanceIp

/-- MUL (R346). -/
def opMul (bm : Bool) (op1 op2 : Operand) : FvmOp Unit := do
  let a1 ← eaOf op1
  let a2 ← eaOf op2
  let v1 ← opRead op1 bm a1
  let v2 ← opRead op2 bm a2
  opWrite op1 bm a1 (v1 * v2)
  advanceIp

/-- DIV: a zero divisor has no effect at all (R347). -/
def opDiv (bm : Bool) (op1 op2 : Operand) : FvmOp Unit := do
  let a1 ← eaOf op1
  let a2 ← eaOf op2
  let v2 ← opRead op2 bm a2
  if v2 = 0 then advanceIp
  else
    let v1 ← opRead op1 bm a1
    opWrite op1 bm a1 (v1 / v2)
    advanceIp

/-- ADC (R348). -/
def opAdc (bm : Bool) (op1 op2 : Operand) : FvmOp Unit :=
  aluOp bm op1 op2 (adcResult bm) (flagsAdc bm)

/-- SBB (R349). -/
def opSbb (bm : Bool) (op1 op2 : Operand) : FvmOp Unit :=
  aluOp bm op1 op2 (sbbResult bm) (flagsSbb bm)

/-- XOR (R350). -/
def opBxor (bm : Bool) (op1 op2 : Operand) : FvmOp Unit :=
  aluOp bm op1 op2 (fun _ v1 v2 => v1 ^^^ v2) (fun _ v1 v2 => flagsZS (v1 ^^^ v2))

/-- AND (R351). -/
def opBand (bm : Bool) (op1 op2 : Operand) : FvmOp Unit :=
  aluOp bm op1 op2 (fun _ v1 v2 => v1 &&& v2) (fun _ v1 v2 => flagsZS (v1 &&& v2))

/-- OR (R352). -/
def opBor (bm : Bool) (op1 op2 : Operand) : FvmOp Unit :=
  aluOp bm op1 op2 (fun _ v1 v2 => v1 ||| v2) (fun _ v1 v2 => flagsZS (v1 ||| v2))

/-- SHL (R355). -/
def opShl (bm : Bool) (op1 op2 : Operand) : FvmOp Unit :=
  aluOp bm op1 op2 (fun _ v1 v2 => shlResult v1 v2) (fun _ v1 v2 => flagsShl v1 v2)

/-- SHR (R356). -/
def opShr (bm : Bool) (op1 op2 : Operand) : FvmOp Unit :=
  aluOp bm op1 op2 (fun _ v1 v2 => shrResult v1 v2) (fun _ v1 v2 => flagsShr v1 v2)

/-- SAR (R357). -/
def opSar (bm : Bool) (op1 op2 : Operand) : FvmOp Unit :=
  aluOp bm op1 op2 (fun _ v1 v2 => sarResult v1 v2) (fun _ v1 v2 => flagsSar v1 v2)

/-- TEST (R353). -/
def opTest (bm : Bool) (op1 op2 : Operand) : FvmOp Unit := compareOp bm op1 op2 fun v1 v2 => flagsZS (v1 &&& v2)

/-- NOT (R354). -/
def opBnot (bm : Bool) (op1 : Operand) : FvmOp Unit := do
  let a1 ← eaOf op1
  let v1 ← opRead op1 bm a1
  opWrite op1 bm a1 (~~~v1)
  advanceIp

/-- CMP as an instruction. -/
def execCmp (bm : Bool) (op1 op2 : Operand) (s : State) : Host.Outcome State Fault Refusal :=
  runFvm (opCmp bm op1 op2) s
/-- ADD as an instruction. -/
def execAdd (bm : Bool) (op1 op2 : Operand) (s : State) : Host.Outcome State Fault Refusal :=
  runFvm (opAdd bm op1 op2) s
/-- SUB as an instruction. -/
def execSub (bm : Bool) (op1 op2 : Operand) (s : State) : Host.Outcome State Fault Refusal :=
  runFvm (opSub bm op1 op2) s
/-- MUL as an instruction. -/
def execMul (bm : Bool) (op1 op2 : Operand) (s : State) : Host.Outcome State Fault Refusal :=
  runFvm (opMul bm op1 op2) s
/-- DIV as an instruction. -/
def execDiv (bm : Bool) (op1 op2 : Operand) (s : State) : Host.Outcome State Fault Refusal :=
  runFvm (opDiv bm op1 op2) s
/-- ADC as an instruction. -/
def execAdc (bm : Bool) (op1 op2 : Operand) (s : State) : Host.Outcome State Fault Refusal :=
  runFvm (opAdc bm op1 op2) s
/-- SBB as an instruction. -/
def execSbb (bm : Bool) (op1 op2 : Operand) (s : State) : Host.Outcome State Fault Refusal :=
  runFvm (opSbb bm op1 op2) s
/-- XOR as an instruction. -/
def execBxor (bm : Bool) (op1 op2 : Operand) (s : State) : Host.Outcome State Fault Refusal :=
  runFvm (opBxor bm op1 op2) s
/-- AND as an instruction. -/
def execBand (bm : Bool) (op1 op2 : Operand) (s : State) : Host.Outcome State Fault Refusal :=
  runFvm (opBand bm op1 op2) s
/-- OR as an instruction. -/
def execBor (bm : Bool) (op1 op2 : Operand) (s : State) : Host.Outcome State Fault Refusal :=
  runFvm (opBor bm op1 op2) s
/-- TEST as an instruction. -/
def execTest (bm : Bool) (op1 op2 : Operand) (s : State) : Host.Outcome State Fault Refusal :=
  runFvm (opTest bm op1 op2) s
/-- SHL as an instruction. -/
def execShl (bm : Bool) (op1 op2 : Operand) (s : State) : Host.Outcome State Fault Refusal :=
  runFvm (opShl bm op1 op2) s
/-- SHR as an instruction. -/
def execShr (bm : Bool) (op1 op2 : Operand) (s : State) : Host.Outcome State Fault Refusal :=
  runFvm (opShr bm op1 op2) s
/-- SAR as an instruction. -/
def execSar (bm : Bool) (op1 op2 : Operand) (s : State) : Host.Outcome State Fault Refusal :=
  runFvm (opSar bm op1 op2) s
/-- INC as an instruction. -/
def execInc (bm : Bool) (op1 : Operand) (s : State) : Host.Outcome State Fault Refusal := runFvm (opInc bm op1) s
/-- DEC as an instruction. -/
def execDec (bm : Bool) (op1 : Operand) (s : State) : Host.Outcome State Fault Refusal := runFvm (opDec bm op1) s
/-- NEG as an instruction. -/
def execNeg (bm : Bool) (op1 : Operand) (s : State) : Host.Outcome State Fault Refusal := runFvm (opNeg bm op1) s
/-- NOT as an instruction. -/
def execBnot (bm : Bool) (op1 : Operand) (s : State) : Host.Outcome State Fault Refusal := runFvm (opBnot bm op1) s

end Sys2Proof.Machine
end

