-- ==== Sys2Proof/Machine/Native.lean ====
section
/-! DEFINITION. The parameter `NATIVE` (47_fvm_control.md R391) and its default, the seven native transforms (R392 to R398,
UNVERIFIED against any archive, entry 7). A loop's first argument is a bound on its iterations. -/

namespace Sys2Proof.Machine

/-- A byte of `Mem` as a number. -/
def byteAt (m : Memory) (a : Nat) : Nat := (m.read a).toNat

/-- The word loop of E8 and E8E9 from position `p` on; `dual` also takes opcode E9 (R392, R393). -/
def e8Loop (dual : Bool) (n : Nat) (fo : Word) : Nat → Nat → Memory → Memory
  | 0, _, m => m
  | fuel + 1, p, m =>
    if p < n - 4 then
      let b := m.read p
      let p := p + 1
      if b = 0xE8 ∨ (dual = true ∧ b = 0xE9) then
        let offset := BitVec.ofNat 32 p + fo
        let addr := memRead32 m (BitVec.ofNat 32 p)
        let m :=
          if addr.msb then
            if (addr + offset).msb then m else memWrite32 m (BitVec.ofNat 32 p) (addr + 0x1000000)
          else if (addr - 0x1000000).msb then memWrite32 m (BitVec.ofNat 32 p) (addr - offset)
          else m
        e8Loop dual n fo fuel (p + 4) m
      else e8Loop dual n fo fuel p m
    else m

/-- The memory after E8 or E8E9 (R392, R393). -/
def e8Transform (dual : Bool) (n : Nat) (fo : Word) (m : Memory) : Memory :=
  if 0x3C000 ≤ n ∨ n < 4 then m else e8Loop dual n fo n 0 m

/-- `MASKS` (R394). -/
def itaniumMasks : List Nat := [4, 4, 6, 6, 0, 0, 7, 7, 4, 4, 0, 0, 4, 4, 0, 0]

/-- `GetBits(base, bitpos, count)` (R394). -/
def getBits (m : Memory) (base bitpos count : Nat) : Nat :=
  (memRead32 m (BitVec.ofNat 32 (base + bitpos / 8))).toNat / 2 ^ (bitpos % 8) % 2 ^ count

/-- `SetBits(base, v, bitpos, count)` (R394). -/
def setBits (m : Memory) (base v bitpos count : Nat) : Memory :=
  let a := BitVec.ofNat 32 (base + bitpos / 8)
  let mask : Word := BitVec.ofNat 32 ((2 ^ count - 1) * 2 ^ (bitpos % 8))
  let field : Word := BitVec.ofNat 32 (v % 2 ^ count * 2 ^ (bitpos % 8))
  memWrite32 m a ((memRead32 m a &&& ~~~mask) ||| field)

/-- One slot of a bundle (R394). -/
def itaniumSlot (fo : Word) (p i : Nat) (m : Memory) : Memory :=
  let sp := 41 * i + 5
  if getBits m p (sp + 37) 4 = 5 then
    let x := getBits m p (sp + 13) 20
    setBits m p (BitVec.ofNat 20 x - BitVec.ofNat 20 fo.toNat).toNat (sp + 13) 20
  else m

/-- One bundle: the slots its template names, in order (R394). -/
def itaniumBundle (fo : Word) (p : Nat) (m : Memory) : Memory :=
  let t := byteAt m p % 32
  if t < 16 then m
  else
    let mask := itaniumMasks.getD (t - 16) 0
    [0, 1, 2].foldl (fun m i => if mask.testBit i then itaniumSlot fo p i m else m) m

/-- The loop over the bundles (R394). -/
def itaniumLoop (n : Nat) : Nat → Nat → Word → Memory → Memory
  | 0, _, _, m => m
  | fuel + 1, p, fo, m =>
    if p < n - 21 then itaniumLoop n fuel (p + 16) (fo + 1) (itaniumBundle fo p m) else m

/-- The memory after ITANIUM (R394). -/
def itaniumTransform (n : Nat) (fileOffset : Word) (m : Memory) : Memory :=
  if 0x3C000 ≤ n ∨ n < 21 then m else itaniumLoop n n 0 (fileOffset >>> 4) m

/-- One channel of DELTA: the memory and the next source position (R395). -/
def deltaChannel (n ch : Nat) : Nat → Nat → Byte → Memory × Nat → Memory × Nat
  | 0, _, _, r => r
  | fuel + 1, d, prev, (m, src) =>
    if d < 2 * n then
      let prev := prev - m.read src
      deltaChannel n ch fuel (d + ch) prev (m.write d prev, src + 1)
    else (m, src)

/-- The memory after DELTA (R395). -/
def deltaTransform (n ch : Nat) (m : Memory) : Memory :=
  if 0x1E000 ≤ n then m
  else
    let m := memWrite32 m vmPosWord (BitVec.ofNat 32 n)
    ((List.range (min ch n)).foldl (fun r c => deltaChannel n ch n (n + c) 0 r) (m, 0)).1

/-- The predictor of RGB (R396). -/
def rgbPredict (prev up ul : Byte) : Byte :=
  let pr : Int := prev.toNat + up.toNat - ul.toNat
  let pa := (pr - prev.toNat).natAbs
  let pb := (pr - up.toNat).natAbs
  let pc := (pr - ul.toNat).natAbs
  if pa ≤ pb ∧ pa ≤ pc then prev else if pb ≤ pc then up else ul

/-- One channel of RGB (R396). -/
def rgbChannel (n width : Nat) : Nat → Nat → Byte → Memory × Nat → Memory × Nat
  | 0, _, _, r => r
  | fuel + 1, i, prev, (m, src) =>
    if i < n then
      let pred :=
        if width + 3 ≤ i then rgbPredict prev (m.read (n + (i - width))) (m.read (n + (i - width - 3))) else prev
      let prev := pred - m.read src
      rgbChannel n width fuel (i + 3) prev (m.write (n + i) prev, src + 1)
    else (m, src)

/-- The loop that adds green to red and blue (R396). -/
def rgbGreen (n : Nat) : Nat → Nat → Memory → Memory
  | 0, _, m => m
  | fuel + 1, i, m =>
    if i < n - 2 then
      let g := m.read (n + i + 1)
      let m := m.write (n + i) (m.read (n + i) + g)
      rgbGreen n fuel (i + 3) (m.write (n + i + 2) (m.read (n + i + 2) + g))
    else m

/-- The memory after RGB (R396). -/
def rgbTransform (n : Nat) (r0 posr : Word) (m : Memory) : Memory :=
  let width := (r0 - 3).toNat
  if 0x1E000 ≤ n ∨ n < 3 ∨ n < width ∨ 2 < posr.toNat then m
  else
    let m := memWrite32 m vmPosWord (BitVec.ofNat 32 n)
    let m := ([0, 1, 2].foldl (fun r c => rgbChannel n width n c 0 r) (m, 0)).1
    rgbGreen n n posr.toNat m

/-- The predictor of one AUDIO channel (R397). -/
structure AudioPredictor where
  prev : Nat
  pdelta : Int
  d1 : Int
  d2 : Int
  d3 : Int
  k1 : Int
  k2 : Int
  k3 : Int
  dif : List Nat
  count : Nat
  deriving DecidableEq, Repr

/-- The predictor at the start of a channel. -/
def audioStart : AudioPredictor :=
  { prev := 0, pdelta := 0, d1 := 0, d2 := 0, d3 := 0, k1 := 0, k2 := 0, k3 := 0, dif := [0, 0, 0, 0, 0, 0, 0],
    count := 0 }

/-- `sext_8` of a number modulo 256, as a signed integer (00_scope.md R10). -/
def sext8 (v : Int) : Int := (BitVec.ofInt 8 v).toInt

/-- The least index at which a list is minimal. -/
def argMin (l : List Nat) : Nat := l.findIdx fun x => l.all fun y => decide (x ≤ y)

/-- A weight lowered or raised within its range (R397). -/
def lowerWeight (k : Int) : Int := if k ≥ -16 then k - 1 else k
/-- See `lowerWeight`. -/
def raiseWeight (k : Int) : Int := if k < 16 then k + 1 else k

/-- The adjustment of the weights from the seven sums (R397). -/
def audioAdjust (a : AudioPredictor) : AudioPredictor :=
  let m := argMin a.dif
  let a := { a with dif := [0, 0, 0, 0, 0, 0, 0] }
  if m = 1 then { a with k1 := lowerWeight a.k1 }
  else if m = 2 then { a with k1 := raiseWeight a.k1 }
  else if m = 3 then { a with k2 := lowerWeight a.k2 }
  else if m = 4 then { a with k2 := raiseWeight a.k2 }
  else if m = 5 then { a with k3 := lowerWeight a.k3 }
  else if m = 6 then { a with k3 := raiseWeight a.k3 }
  else a

/-- One byte of a channel: the output byte and the predictor after it (R397). -/
def audioStep (a : AudioPredictor) (cur : Byte) : Byte × AudioPredictor :=
  let d3 := a.d2
  let d2 := a.pdelta - a.d1
  let d1 := a.pdelta
  let pred : Int := (8 * (a.prev : Int) + a.k1 * d1 + a.k2 * d2 + a.k3 * d3) / 8 % 256
  let out : Byte := BitVec.ofInt 8 (pred - cur.toNat)
  let dd : Int := 8 * sext8 cur.toNat
  let terms : List Nat :=
    [dd.natAbs, (dd - d1).natAbs, (dd + d1).natAbs, (dd - d2).natAbs, (dd + d2).natAbs, (dd - d3).natAbs,
     (dd + d3).natAbs]
  let b : AudioPredictor :=
    { a with prev := out.toNat, pdelta := sext8 ((out.toNat : Int) - a.prev), d1 := d1, d2 := d2, d3 := d3,
             dif := List.zipWith (· + ·) a.dif terms }
  let b := if a.count % 32 = 0 then audioAdjust b else b
  (out, { b with count := a.count + 1 })

/-- One channel of AUDIO (R397). -/
def audioChannel (n ch : Nat) : Nat → Nat → AudioPredictor → Memory × Nat → Memory × Nat
  | 0, _, _, r => r
  | fuel + 1, i, a, (m, src) =>
    if i < n then
      let r := audioStep a (m.read src)
      audioChannel n ch fuel (i + ch) r.2 (m.write (n + i) r.1, src + 1)
    else (m, src)

/-- The memory after AUDIO (R397). -/
def audioTransform (n ch : Nat) (m : Memory) : Memory :=
  if 0x1E000 ≤ n ∨ ch = 0 ∨ 128 < ch then m
  else
    let m := memWrite32 m vmPosWord (BitVec.ofNat 32 n)
    ((List.range ch).foldl (fun r c => audioChannel n ch n c audioStart r) (m, 0)).1

/-- The loop of UPCASE: the memory and the end of the output (R398). -/
def upcaseLoop (n : Nat) : Nat → Nat → Nat → Memory → Memory × Nat
  | 0, _, dst, m => (m, dst)
  | fuel + 1, src, dst, m =>
    if src < n then
      let b := m.read src
      if b = 2 then
        let c := m.read (src + 1)
        upcaseLoop n fuel (src + 2) (dst + 1) (m.write dst (if c = 2 then c else c - 32))
      else upcaseLoop n fuel (src + 1) (dst + 1) (m.write dst b)
    else (m, dst)

/-- The memory after UPCASE (R398). -/
def upcaseTransform (n : Nat) (m : Memory) : Memory :=
  if 0x1E000 ≤ n then m
  else
    let r := upcaseLoop n n 0 n m
    let m := memWrite32 r.1 vmSizeWord (BitVec.ofNat 32 (r.2 - n))
    memWrite32 m vmPosWord (BitVec.ofNat 32 n)

/-- The default of `NATIVE[kind]`: only `Mem` changes (R391). -/
def nativeDefault (k : StdKind) (f : Fvm) : Fvm :=
  let n := (f.reg 4).toNat
  match k with
  | .e8 => f.setMem (e8Transform false n (f.reg 6) f.mem)
  | .e8e9 => f.setMem (e8Transform true n (f.reg 6) f.mem)
  | .itanium => f.setMem (itaniumTransform n (f.reg 6) f.mem)
  | .delta => f.setMem (deltaTransform n (f.reg 0).toNat f.mem)
  | .rgb => f.setMem (rgbTransform n (f.reg 0) (f.reg 1) f.mem)
  | .audio => f.setMem (audioTransform n (f.reg 0).toNat f.mem)
  | .upcase => f.setMem (upcaseTransform n f.mem)

/-- `NATIVE[kind]` on the FVM: `(Mem, R) <- NATIVE[kind](Mem, R)` (R390, R391). A byte that a given value leaves out of its
0x40000 is 0 (entry 31). -/
def nativeApply (c : NativeChoice) (k : StdKind) (f : Fvm) : Fvm :=
  match c with
  | .default => nativeDefault k f
  | .given name =>
    let r := Config.nativeGiven name k (f.mem.readRange 0 vmMemSize) f.regs
    { f with mem := memWriteBytes [] 0 (r.1.take vmMemSize), regs := r.2 }

/-! ### The NATIVE rows as instructions: the transform on the FVM as it stands; `ip` is STANDARD's to move (entry 25) -/

/-- NATIVE.E8 (R392). -/
def opNativeE8 (c : NativeChoice) : FvmOp Unit := modify (nativeApply c .e8)
/-- NATIVE.E8E9 (R393). -/
def opNativeE8E9 (c : NativeChoice) : FvmOp Unit := modify (nativeApply c .e8e9)
/-- NATIVE.ITANIUM (R394). -/
def opNativeItanium (c : NativeChoice) : FvmOp Unit := modify (nativeApply c .itanium)
/-- NATIVE.DELTA (R395). -/
def opNativeDelta (c : NativeChoice) : FvmOp Unit := modify (nativeApply c .delta)
/-- NATIVE.RGB (R396). -/
def opNativeRgb (c : NativeChoice) : FvmOp Unit := modify (nativeApply c .rgb)
/-- NATIVE.AUDIO (R397). -/
def opNativeAudio (c : NativeChoice) : FvmOp Unit := modify (nativeApply c .audio)
/-- NATIVE.UPCASE (R398). -/
def opNativeUpcase (c : NativeChoice) : FvmOp Unit := modify (nativeApply c .upcase)

/-- NATIVE.E8 as an instruction. -/
def execNativeE8 (s : State) : Host.Outcome State Fault Refusal := runFvm (opNativeE8 s.cfg.native) s
/-- NATIVE.E8E9 as an instruction. -/
def execNativeE8E9 (s : State) : Host.Outcome State Fault Refusal := runFvm (opNativeE8E9 s.cfg.native) s
/-- NATIVE.ITANIUM as an instruction. -/
def execNativeItanium (s : State) : Host.Outcome State Fault Refusal := runFvm (opNativeItanium s.cfg.native) s
/-- NATIVE.DELTA as an instruction. -/
def execNativeDelta (s : State) : Host.Outcome State Fault Refusal := runFvm (opNativeDelta s.cfg.native) s
/-- NATIVE.RGB as an instruction. -/
def execNativeRgb (s : State) : Host.Outcome State Fault Refusal := runFvm (opNativeRgb s.cfg.native) s
/-- NATIVE.AUDIO as an instruction. -/
def execNativeAudio (s : State) : Host.Outcome State Fault Refusal := runFvm (opNativeAudio s.cfg.native) s
/-- NATIVE.UPCASE as an instruction. -/
def execNativeUpcase (s : State) : Host.Outcome State Fault Refusal := runFvm (opNativeUpcase s.cfg.native) s

end Sys2Proof.Machine
end

