-- ==== Sys2Proof/Machine/FvmControl.lean ====
section
/-! DEFINITION. FVM control transfer, PRINT and STANDARD (47_fvm_control.md). -/

namespace Sys2Proof.Machine

/-- `ip <- OpRead(op1, 0)` (R370). -/
def jumpTo (op1 : Operand) (a1 : Word) : FvmOp Unit := do
  let t ← opRead op1 false a1
  modify fun f => f.setIp t

/-- The common form of the jumps: taken when `cond FLAGS` holds; a jump not taken does not read its operand (R370). -/
def jumpIf (cond : Word → Bool) (op1 : Operand) : FvmOp Unit := do
  let a1 ← eaOf op1
  let f ← get
  if cond f.flags then jumpTo op1 a1 else advanceIp

/-- JMP (R371). -/
def opJmp (op1 : Operand) : FvmOp Unit := jumpIf (fun _ => true) op1

/-- JZ (R372). -/
def opJz (op1 : Operand) : FvmOp Unit := jumpIf (fun fl => fl &&& flagZ != 0) op1

/-- JNZ (R373). -/
def opJnz (op1 : Operand) : FvmOp Unit := jumpIf (fun fl => fl &&& flagZ == 0) op1

/-- JS (R374). -/
def opJs (op1 : Operand) : FvmOp Unit := jumpIf (fun fl => fl &&& flagS != 0) op1

/-- JNS (R375). -/
def opJns (op1 : Operand) : FvmOp Unit := jumpIf (fun fl => fl &&& flagS == 0) op1

/-- JB (R376). -/
def opJb (op1 : Operand) : FvmOp Unit := jumpIf (fun fl => fl &&& flagC != 0) op1

/-- JBE (R377). -/
def opJbe (op1 : Operand) : FvmOp Unit := jumpIf (fun fl => fl &&& (flagC ||| flagZ) != 0) op1

/-- JA (R378). -/
def opJa (op1 : Operand) : FvmOp Unit := jumpIf (fun fl => fl &&& (flagC ||| flagZ) == 0) op1

/-- JAE (R379). -/
def opJae (op1 : Operand) : FvmOp Unit := jumpIf (fun fl => fl &&& flagC == 0) op1

/-- CALL: the target is read after the push (R380). -/
def opCall (op1 : Operand) : FvmOp Unit := do
  let a1 ← eaOf op1
  let sp ← growStack
  let f ← get
  putWord sp (f.ip + 1)
  jumpTo op1 a1

/-- RET: with `R[7]` at or above 0x40000 the execution ends (R381); `ip` then stays, as the spec's own runs show
(95_test_vectors.md PRG2, PRG3; entry 12). -/
def opRet : FvmOp Unit := do
  let f ← get
  if vmMemSize ≤ (f.reg 7).toNat then modify Fvm.finish
  else
    modify fun f => (f.setIp (memRead32 f.mem (f.reg 7))).setReg 7 (f.reg 7 + 4)

/-- PRINT (R382). -/
def opPrint : FvmOp Unit := advanceIp

/-- STANDARD (R390). -/
def opStandard (c : NativeChoice) (k : StdKind) : FvmOp Unit := do
  modify (nativeApply c k)
  advanceIp

/-- JMP as an instruction. -/
def execJmp (op1 : Operand) (s : State) : Host.Outcome State Fault Refusal := runFvm (opJmp op1) s
/-- JZ as an instruction. -/
def execJz (op1 : Operand) (s : State) : Host.Outcome State Fault Refusal := runFvm (opJz op1) s
/-- JNZ as an instruction. -/
def execJnz (op1 : Operand) (s : State) : Host.Outcome State Fault Refusal := runFvm (opJnz op1) s
/-- JS as an instruction. -/
def execJs (op1 : Operand) (s : State) : Host.Outcome State Fault Refusal := runFvm (opJs op1) s
/-- JNS as an instruction. -/
def execJns (op1 : Operand) (s : State) : Host.Outcome State Fault Refusal := runFvm (opJns op1) s
/-- JB as an instruction. -/
def execJb (op1 : Operand) (s : State) : Host.Outcome State Fault Refusal := runFvm (opJb op1) s
/-- JBE as an instruction. -/
def execJbe (op1 : Operand) (s : State) : Host.Outcome State Fault Refusal := runFvm (opJbe op1) s
/-- JA as an instruction. -/
def execJa (op1 : Operand) (s : State) : Host.Outcome State Fault Refusal := runFvm (opJa op1) s
/-- JAE as an instruction. -/
def execJae (op1 : Operand) (s : State) : Host.Outcome State Fault Refusal := runFvm (opJae op1) s
/-- CALL as an instruction. -/
def execCall (op1 : Operand) (s : State) : Host.Outcome State Fault Refusal := runFvm (opCall op1) s
/-- RET as an instruction. -/
def execRet (s : State) : Host.Outcome State Fault Refusal := runFvm opRet s
/-- PRINT as an instruction. -/
def execPrint (s : State) : Host.Outcome State Fault Refusal := runFvm opPrint s
/-- STANDARD as an instruction. -/
def execStandard (k : StdKind) (s : State) : Host.Outcome State Fault Refusal := runFvm (opStandard s.cfg.native k) s

end Sys2Proof.Machine
end

