-- ==== Sys2Proof/Machine/BitCursor.lean ====
section
/-! DEFINITION. BitCursor: the payload's stream bits and the operations over them (40_bitcursor.md). -/

namespace Sys2Proof.Machine

/-- `pos` (10_state.md R32). -/
def State.pos (s : State) : Nat := 8 * s.bc.byte.toNat + s.bc.bit.toNat

/-- `END` (40_bitcursor.md). -/
def State.endPos (s : State) : Nat := 8 * s.host.plen.toNat

/-- `bit(k)`: 0 at and beyond the end (R141). -/
def State.streamBit (s : State) (k : Nat) : Bool :=
  decide (k < s.endPos) && (s.host.payload.read (k / 8)).getLsbD (k % 8)

/-- The `n` stream bits from `pos` on, zero-filled. -/
def State.peekBits (s : State) (n : Nat) : List Bool := (List.range n).map fun i => s.streamBit (s.pos + i)

/-- The value `BC.peek(n)` gives (R142). -/
def State.peekVal (s : State) (n : Nat) : Nat := fieldZ n (s.peekBits n)

/-- Whether `n` more bits remain (R143). -/
def State.canRead (s : State) (n : Nat) : Bool := decide (s.pos + n ≤ s.endPos)

/-- `pos <- p` (R143). -/
def State.seek (s : State) (p : Nat) : State :=
  { s with bc := { byte := BitVec.ofNat 32 (p / 8), bit := BitVec.ofNat 3 (p % 8) } }

/-- `BC.align()` on the cursor (R146). -/
def BitCursor.align (c : BitCursor) : BitCursor := if c.bit = 0 then c else { byte := c.byte + 1, bit := 0 }

/-- `BC.peek(n)` (R142). -/
def bcPeek (n : Nat) : Op Nat := do
  let s ← get
  pure (s.peekVal n)

/-- `BC.read(n)` (R143): the check precedes any advancement (R144). -/
def bcRead (n : Nat) : Op Nat := do
  let s ← get
  if s.canRead n then
    set (s.seek (s.pos + n))
    pure (s.peekVal n)
  else opRaise .truncated

/-- `BC.align()` (R146). -/
def bcAlign : Op Unit := modify fun s => { s with bc := s.bc.align }

/-- `BC.read_bytes(n)` (R147): on failure not even the discard happens. -/
def bcReadBytes (n : Nat) : Op (List Byte) := do
  let s ← get
  let b := s.bc.byte.toNat + (if s.bc.bit = 0 then 0 else 1)
  if b + n ≤ s.host.plen.toNat then
    set { s with bc := { byte := BitVec.ofNat 32 (b + n), bit := 0 } }
    pure (s.host.payload.readRange b n)
  else opRaise .truncated

/-- `count` fields of 8 bits (43_unpack_engine.md R243). -/
def bcReadFields : Nat → Op (List Byte)
  | 0 => pure []
  | n + 1 => do
    let b ← bcRead 8
    let bs ← bcReadFields n
    pure (BitVec.ofNat 8 b :: bs)

end Sys2Proof.Machine
end

