-- ==== Sys2Proof/Machine/Huffman.lean ====
section
/-! DEFINITION. HuffmanTableBuilder and SymbolDecoder (41_huffman.md), and the canonical codes they agree on. -/

namespace Sys2Proof.Machine

/-- `len_count[l]`, with `len_count[0] = 0` (R161, R162). -/
def lenCount (len : List (BitVec 4)) (l : Nat) : Nat := if l = 0 then 0 else len.countP fun x => x.toNat == l

/-- `first[l]`, the smallest code of length `l` (R163). -/
def firstCode (len : List (BitVec 4)) : Nat → Nat
  | 0 => 0
  | l + 1 => 2 * (firstCode len l + lenCount len l)

/-- `decode_len[l]` (R164). -/
def decodeLenAt (len : List (BitVec 4)) (l : Nat) : Nat :=
  if l = 0 then 0 else (firstCode len l + lenCount len l) * 2 ^ (16 - l)

/-- `decode_pos[l]` (R165, R169). -/
def decodePosAt (len : List (BitVec 4)) : Nat → Nat
  | 0 => 0
  | l + 1 => decodePosAt len l + lenCount len l

/-- The symbols of length `l`, in index order. -/
def symbolsOfLen (len : List (BitVec 4)) (l : Nat) : List Nat :=
  (List.range len.length).filter fun s => (len.getD s 0).toNat == l

/-- `decode_num[0 .. n_used)`: by code length, then by symbol index (R167, R170). -/
def sortedSymbols (len : List (BitVec 4)) : List Nat := (List.range 15).flatMap fun k => symbolsOfLen len (k + 1)

/-- Check (a): some length has more codes than it can hold (R166). -/
def overSubscribed (len : List (BitVec 4)) : Bool :=
  (List.range 15).any fun k => decide (2 ^ (k + 1) < firstCode len (k + 1) + lenCount len (k + 1))

/-- `Build` for an alphabet of `n` symbols; `none` is `InvalidTable` (R160 to R171). -/
def buildTable (n : Nat) (len : List (BitVec 4)) : Option HuffTable :=
  let used := decodePosAt len 15 + lenCount len 15
  if overSubscribed len then none
  else if lenCount len 0 ≠ 0 then none
  else if used ≠ len.countP (fun x => x != 0) then none
  else if len.length ≠ n then none
  else some
    { decodeLen := (List.range 16).map (decodeLenAt len)
      decodePos := (List.range 16).map (decodePosAt len)
      decodeNum := sortedSymbols len
      nUsed := used }

/-- The size of a table's alphabet (10_state.md R34). -/
def tableSize : TableId → Nat
  | .ld => Config.sizeLD
  | .dd => Config.sizeDD
  | .ldd => Config.sizeLDD
  | .rd => Config.sizeRD
  | .md => Config.sizeMD

/-- A table of the five. -/
def Tables.select (t : Tables) : TableId → HuffTable
  | .ld => t.ld
  | .dd => t.dd
  | .ldd => t.ldd
  | .rd => t.rd
  | .md => t.md

/-- One of the five tables replaced. -/
def Tables.replace (t : Tables) (i : TableId) (h : HuffTable) : Tables :=
  match i with
  | .ld => { t with ld := h }
  | .dd => { t with dd := h }
  | .ldd => { t with ldd := h }
  | .rd => { t with rd := h }
  | .md => { t with md := h }

/-- `Build(T, len)` (R160). -/
def htbBuild (i : TableId) (len : List (BitVec 4)) : Op Unit := do
  match buildTable (tableSize i) len with
  | none => opRaise .invalidTable
  | some h => modify fun s => { s with tables := s.tables.replace i h }

/-- The length bucket: the least `l` of 1 to 15 whose boundary lies above the peeked bits (R176, R177). -/
def HuffTable.bucket (h : HuffTable) (peeked : Nat) : Option Nat :=
  ((List.range 15).map (· + 1)).find? fun l => decide (peeked < h.decodeLen.getD l 0)

/-- The index into `decode_num` (R176). -/
def HuffTable.index (h : HuffTable) (bits peeked : Nat) : Nat :=
  h.decodePos.getD bits 0 + (peeked - h.decodeLen.getD (bits - 1) 0) / 2 ^ (16 - bits)

/-- `Decode(T)` over a given table (R176, R178). -/
def decodeWith (h : HuffTable) : Op Nat := do
  let peeked ← bcPeek 16
  match h.bucket peeked with
  | none => opRaise .corruptStream
  | some bits => do
    let _ ← bcRead bits
    let index := h.index bits peeked
    if h.nUsed ≤ index then opRaise .corruptStream
    else pure (h.decodeNum.getD index 0)

/-- `Decode(T)` (R175). -/
def decodeSym (i : TableId) : Op Nat := do
  let s ← get
  decodeWith (s.tables.select i)

/-! ### The canonical code of a symbol, for the reference encoder of R180 -/

/-- The code value of symbol `sym` in the code of `len`: its rank among the symbols of its length, from `first` (R163,
R170). -/
def codeOf (len : List (BitVec 4)) (sym : Nat) : Nat :=
  firstCode len (len.getD sym 0).toNat + (len.take sym).countP fun x => x == len.getD sym 0

/-- The code bits of a symbol, most significant first (R163). -/
def encodeSym (len : List (BitVec 4)) (sym : Nat) : List Bool := fieldBits (len.getD sym 0).toNat (codeOf len sym)

/-- The code bits of a symbol sequence (R180). -/
def encodeSyms (len : List (BitVec 4)) (syms : List Nat) : List Bool := syms.flatMap (encodeSym len)

end Sys2Proof.Machine
end

