-- ==== Sys2Proof/Machine/Header.lean ====
section
/-! DEFINITION. The block header and its table description (43_unpack_engine.md R220 to R226, 30_encoding.md R93 to
R100). -/

namespace Sys2Proof.Machine

/-- The meta-alphabet lengths, `ml` holding those read so far (R223, 30_encoding.md R94). Each round gives at least one
length, so 20 rounds suffice. -/
def readMetaLengths : Nat → List (BitVec 4) → Op (List (BitVec 4))
  | 0, ml => pure ml
  | fuel + 1, ml =>
    if 20 ≤ ml.length then pure ml
    else do
      let v ← bcRead 4
      if v ≠ 15 then readMetaLengths fuel (ml ++ [BitVec.ofNat 4 v])
      else
        let z ← bcRead 4
        if z = 0 then readMetaLengths fuel (ml ++ [15])
        else if 20 < ml.length + (z + 2) then opRaise .invalidTable
        else readMetaLengths fuel (ml ++ List.replicate (z + 2) 0)

/-- `lens[lo .. lo + n)`. -/
def lensSlice (lens : List (BitVec 4)) (lo n : Nat) : List (BitVec 4) := (lens.drop lo).take n

/-- The four tables built from the 404 lengths, in order (R226). -/
def buildFour : Op Unit := do
  let s ← get
  htbBuild .ld (lensSlice s.lens 0 Config.sizeLD)
  htbBuild .dd (lensSlice s.lens 299 Config.sizeDD)
  htbBuild .ldd (lensSlice s.lens 359 Config.sizeLDD)
  htbBuild .rd (lensSlice s.lens 376 Config.sizeRD)
  modify fun s =>
    { s with tables := { s.tables with valid := true }, ue := .decodingSymbols, hdr := .start, lens := [] }

/-- Lengths appended to `lens`; after the 404th the tables are built (R224, R226). -/
def appendLens (ls : List (BitVec 4)) : Op Unit := do
  modify fun s => { s with lens := s.lens ++ ls }
  let s ← get
  if Config.huffTableSize ≤ s.lens.length then buildFour else pure ()

/-- A run of the 404 lengths: field N of `bits` bits, then the checks, then `N + base` times the previous length or 0
(R224, R225). -/
def runLens (bits base : Nat) (previous : Bool) : Op Unit := do
  let n ← bcRead bits
  let s ← get
  if previous = true ∧ s.lens = [] then opRaise .invalidTable
  else if Config.huffTableSize < s.lens.length + (n + base) then opRaise .invalidTable
  else appendLens (List.replicate (n + base) (if previous then s.lens.getLastD 0 else 0))

/-- MD symbols 0 to 15 (R224, 30_encoding.md R96). -/
def mdLenOp (l : BitVec 4) : Op Unit := appendLens [l]
/-- MD symbol 16 (30_encoding.md R97). -/
def mdRepPrev3Op : Op Unit := runLens 3 3 true
/-- MD symbol 17 (30_encoding.md R97). -/
def mdRepPrev11Op : Op Unit := runLens 7 11 true
/-- MD symbol 18 (30_encoding.md R98). -/
def mdRepZero3Op : Op Unit := runLens 3 3 false
/-- MD symbol 19 (30_encoding.md R98). -/
def mdRepZero11Op : Op Unit := runLens 7 11 false

/-- The block header up to its meta-alphabet table (R220 to R223, entry 27). -/
def blockHeaderOp : Op Unit := do
  bcAlign
  modify fun s => { s with low := { prev := 0, rep := 0 } }
  let rsv ← bcRead 1
  if rsv = 1 then opRaise .corruptStream
  else
    let reuse ← bcRead 1
    let s ← get
    if reuse = 1 then
      if s.tables.valid then set { s with ue := .decodingSymbols, hdr := .start }
      else opRaise .corruptStream
    else
      let ml ← readMetaLengths 20 []
      htbBuild .md ml
      modify fun s => { s with ue := .readingTables, hdr := .lengths, lens := [] }

/-- BLOCK_HEADER as an instruction. -/
def execBlockHeader (s : State) : Host.Outcome State Fault Refusal := runOp blockHeaderOp s
/-- MD.LEN as an instruction. -/
def execMdLen (l : BitVec 4) (s : State) : Host.Outcome State Fault Refusal := runOp (mdLenOp l) s
/-- MD.REP_PREV3 as an instruction. -/
def execMdRepPrev3 (s : State) : Host.Outcome State Fault Refusal := runOp mdRepPrev3Op s
/-- MD.REP_PREV11 as an instruction. -/
def execMdRepPrev11 (s : State) : Host.Outcome State Fault Refusal := runOp mdRepPrev11Op s
/-- MD.REP_ZERO3 as an instruction. -/
def execMdRepZero3 (s : State) : Host.Outcome State Fault Refusal := runOp mdRepZero3Op s
/-- MD.REP_ZERO11 as an instruction. -/
def execMdRepZero11 (s : State) : Host.Outcome State Fault Refusal := runOp mdRepZero11Op s

end Sys2Proof.Machine
end

