-- ==== Sys2Proof/Machine/FvmProgram.lean ====
section
/-! DEFINITION. The program compiler, the load of an execution, its run and its result (44_fvm_program.md). -/

namespace Sys2Proof.Machine

/-! ### Compile (R280 to R286) -/

/-- The exclusive-or of all bytes but the first (R281). -/
def blobSum (code : List Byte) : Byte := (code.drop 1).foldl (· ^^^ ·) 0

/-- One step of the CRC (30_encoding.md R121). -/
def crcBit (crc : Word) : Word := if crc.getLsbD 0 then (crc >>> 1) ^^^ 0xEDB88320 else crc >>> 1

/-- One byte of the CRC: exclusive-ored into the low 8 bits, then eight steps (30_encoding.md R121). -/
def crcByte (crc : Word) (b : Byte) : Word :=
  crcBit (crcBit (crcBit (crcBit (crcBit (crcBit (crcBit (crcBit (crc ^^^ b.setWidth 32))))))))

/-- `CRC32` (30_encoding.md R121). -/
def crc32 (bs : List Byte) : Word := bs.foldl crcByte 0xFFFFFFFF ^^^ 0xFFFFFFFF

/-- The standard filter a blob's length and CRC name (R283). Where two rows of `STD_SIGNATURES` have the same length and CRC
and different kinds, which 30_encoding.md R120 leaves open, the first row is taken: DESIGN CHOICE (unsafe, entry 32). -/
def findStandard (sigs : List Signature) (code : List Byte) : Option StdKind :=
  (sigs.find? fun g => g.codeLen == code.length && g.crc == crc32 code).map (·.kind)

/-- Up to `limit` bytes of 8 bits while bits of the blob are left (R285). -/
def readStatic : Nat → Nat → Pb (List Byte)
  | 0, _ => pure []
  | fuel + 1, limit => fun bits =>
    if limit = 0 ∨ bits.isEmpty then ([], bits)
    else
      let r := readStatic fuel (limit - 1) (bits.drop 8)
      (BitVec.ofNat 8 (fieldZ 8 bits) :: r.1, r.2)

/-- The static data and the bits after it (R285). -/
def decodeStatic : Pb (List Byte) := do
  if (← pbRead 1) = 1 then
    let n ← decodeVnum pbRead
    let bits ← get
    readStatic bits.length (n.toNat + 1)
  else pure []

/-- The commands of the bits left in a blob, numbered from `idx`; each jump's immediate is rewritten (R284,
30_encoding.md R118). A command takes at least one bit, so the length bounds the loop. -/
def decodeCommands : Nat → Nat → List Bool → List Instr
  | 0, _, _ => []
  | fuel + 1, idx, bits =>
    if bits.isEmpty then []
    else
      let r := decodeCommand bits
      rewriteJump idx r.1 :: decodeCommands fuel (idx + 1) r.2

/-- The program of a blob's bits after the checksum byte, the final RET appended (R284 to R286). -/
def decodeProgram (bits : List Bool) : FilterProgram :=
  let r := decodeStatic bits
  { cmds := decodeCommands r.2.length 0 r.2 ++ [.ret], staticData := r.1 }

/-- `Compile(CODE)`; `none` is `CorruptStream` (R280 to R286). -/
def compileBlob (sigs : List Signature) (code : List Byte) : Option FilterProgram :=
  if code.headD 0 ≠ blobSum code then none
  else match findStandard sigs code with
    | some k => some { cmds := [.standard k, .ret], staticData := [] }
    | none => some (decodeProgram (bytesBits (code.drop 1)))

/-! ### The commands -/

/-- What a command does to the FVM, `NATIVE` being `nc`; `none` for an instruction that is no command. -/
def commandOp (nc : NativeChoice) : Instr → Option (FvmOp Unit)
  | .mov bm a b => some (opMov bm a b)
  | .cmp bm a b => some (opCmp bm a b)
  | .add bm a b => some (opAdd bm a b)
  | .sub bm a b => some (opSub bm a b)
  | .jz a => some (opJz a)
  | .jnz a => some (opJnz a)
  | .inc bm a => some (opInc bm a)
  | .dec bm a => some (opDec bm a)
  | .jmp a => some (opJmp a)
  | .bxor bm a b => some (opBxor bm a b)
  | .band bm a b => some (opBand bm a b)
  | .bor bm a b => some (opBor bm a b)
  | .test bm a b => some (opTest bm a b)
  | .js a => some (opJs a)
  | .jns a => some (opJns a)
  | .jb a => some (opJb a)
  | .jbe a => some (opJbe a)
  | .ja a => some (opJa a)
  | .jae a => some (opJae a)
  | .push a => some (opPush a)
  | .pop a => some (opPop a)
  | .call a => some (opCall a)
  | .ret => some opRet
  | .bnot bm a => some (opBnot bm a)
  | .shl bm a b => some (opShl bm a b)
  | .shr bm a b => some (opShr bm a b)
  | .sar bm a b => some (opSar bm a b)
  | .neg bm a => some (opNeg bm a)
  | .pusha => some opPusha
  | .popa => some opPopa
  | .pushf => some opPushf
  | .popf => some opPopf
  | .movzx a b => some (opMovzx a b)
  | .movsx a b => some (opMovsx a b)
  | .xchg bm a b => some (opXchg bm a b)
  | .mul bm a b => some (opMul bm a b)
  | .div bm a b => some (opDiv bm a b)
  | .adc bm a b => some (opAdc bm a b)
  | .sbb bm a b => some (opSbb bm a b)
  | .print => some opPrint
  | .standard k => some (opStandard nc k)
  | _ => none

/-! ### One execution (R287 to R293) -/

/-- `Mem` at the start of an execution (R287). -/
def loadMem (prog : FilterProgram) (i : FilterInstance) (d : List Byte) : Memory :=
  let m := memWriteBytes [] 0 d
  let m := (List.finRange 7).foldl (fun m k => memWrite32 m (0x3C000 + 4 * BitVec.ofNat 32 k.val) (i.initR.get k)) m
  let m := memWrite32 m vmSizeWord i.blockLength
  let m := memWrite32 m vmPosWord 0
  let m := memWrite32 m 0x3C024 i.blockStart
  let m := memWrite32 m 0x3C028 0
  let m := memWrite32 m 0x3C02C i.execCount
  let m := memWriteBytes m (vmGlobal + vmFixedGlobal) i.userData
  memWriteBytes m (vmGlobal + vmFixedGlobal + i.userData.length)
    (prog.staticData.take (vmGlobalSize - vmFixedGlobal - i.userData.length))

/-- The registers at the start of an execution (R288). -/
def loadRegs (i : FilterInstance) : Vector Word 8 :=
  #v[i.initR[0], i.initR[1], i.initR[2], i.initR[3], i.initR[4], i.initR[5], i.blockStart, 0x40000]

/-- The FVM at the start of an execution (R287, R288). -/
def loadFvm (prog : FilterProgram) (i : FilterInstance) (d : List Byte) : Fvm :=
  { regs := loadRegs i, flags := 0, ip := 0, mem := loadMem prog i d, ops := 0, ended := false }

/-- The run loop (R289 to R291) with `fuel` commands left below the ceiling. -/
def fvmRun (prog : FilterProgram) : Nat → Op Unit
  | 0 => do
    let s ← get
    match prog.cmds[s.fvm.ip.toNat]? with
    | none => pure ()
    | some _ => opRaise .filterOverrun
  | fuel + 1 => do
    let s ← get
    match prog.cmds[s.fvm.ip.toNat]? with
    | none => pure ()
    | some c =>
      match commandOp s.cfg.native c with
      | none => throw (.fault .notACommand)
      | some m => do
        set { s with fvm := s.fvm.countOp }
        liftFvm m
        let t ← get
        if t.fvm.ended then pure () else fvmRun prog fuel

/-- The filtered data `F` (R292). -/
def extractResult (m : Memory) : List Byte :=
  let pos := (memRead32 m vmPosWord).toNat % vmMemSize
  let size := (memRead32 m vmSizeWord).toNat % vmMemSize
  if vmMemSize ≤ pos + size then [] else m.readRange pos size

/-- `Exec(prog, inst, D)` (R287 to R292). -/
def fvmExec (prog : FilterProgram) (i : FilterInstance) (d : List Byte) : Op (List Byte) := do
  modify fun s => { s with fvm := loadFvm prog i d }
  let s ← get
  fvmRun prog s.cfg.fvmMaxOps
  let t ← get
  pure (extractResult t.fvm.mem)

/-- The program of an instance, from the registry; its absence is a fault of the model (entry 16). -/
def lookupProgram (i : FilterInstance) : Op FilterProgram := do
  let s ← get
  match s.registry[i.prog]? with
  | some e => pure e.prog
  | none => throw (.fault .noSuchProgram)

end Sys2Proof.Machine
end

