-- ==== Sys2Proof/Machine/Apply.lean ====
section
/-! DEFINITION. Applying pending filters (43_unpack_engine.md R259 to R263). -/

namespace Sys2Proof.Machine

/-- Whether an instance's range is fully produced (R259). -/
def State.ready (s : State) (i : FilterInstance) : Bool :=
  decide (i.blockStart.toNat + i.blockLength.toNat ≤ s.swb.wptr.toNat)

/-- `D`, the window bytes of an instance's range (R260). -/
def State.blockBytes (s : State) (i : FilterInstance) : List Byte :=
  s.swb.mem.readRange i.blockStart.toNat i.blockLength.toNat

/-- Copy-in (R260) and load (R287, R288): the FVM stands at the start of the execution. A range that is not produced is a
fault of the model (entry 16). -/
def applyStart (i : FilterInstance) : Op Unit := do
  let p ← lookupProgram i
  let s ← get
  if s.ready i then set { s with ret := s.ue, ue := .applyFilter, fvm := loadFvm p i (s.blockBytes i) }
  else throw (.fault .noWindowValue)

/-- Write-back of the result (R262). -/
def applyFinish (i : FilterInstance) : Op Unit := do
  let s ← get
  let f := extractResult s.fvm.mem
  if f.length = i.blockLength.toNat then
    set { s with swb := { s.swb with mem := s.swb.mem.writeRange i.blockStart.toNat f }, ue := s.ret }
  else opRaise .corruptStream

/-- `Apply(inst)` in one piece (R260 to R262). -/
def applyInstance (i : FilterInstance) : Op Unit := do
  let p ← lookupProgram i
  applyStart i
  let s ← get
  fvmRun p s.cfg.fvmMaxOps
  applyFinish i

/-- The head of the queue removed. -/
def State.popPend (s : State) : State := { s with pend := s.pend.drop 1 }

/-- `Drain()` with at most `fuel` instances in the queue (R259). -/
def drainLoop : Nat → Op Unit
  | 0 => pure ()
  | fuel + 1 => do
    let s ← get
    match s.pend with
    | [] => pure ()
    | i :: _ =>
      if s.ready i then do
        applyInstance i
        modify State.popPend
        drainLoop fuel
      else pure ()

/-- `Drain()` (R259). -/
def drain : Op Unit := do
  let s ← get
  drainLoop s.pend.length

end Sys2Proof.Machine
end

