-- ==== Sys2Proof/Machine/FilterRecord.lean ====
section
/-! DEFINITION. The filter invocation record (43_unpack_engine.md R243 to R256). -/

namespace Sys2Proof.Machine

/-- The bits of the filter-control byte (30_encoding.md R109). -/
def fIndex (fb : Byte) : Bool := fb.getLsbD 7
/-- `F_ADD258`. -/
def fAdd258 (fb : Byte) : Bool := fb.getLsbD 6
/-- `F_LENGTH`. -/
def fLength (fb : Byte) : Bool := fb.getLsbD 5
/-- `F_REGS`. -/
def fRegs (fb : Byte) : Bool := fb.getLsbD 4
/-- `F_DATA`. -/
def fData (fb : Byte) : Bool := fb.getLsbD 3

/-- The record length after the filter-control byte (R243, 30_encoding.md R108). -/
def readRecordLen (fb : Byte) : Op Nat := do
  let k := fb.toNat % 8 + 1
  if k = 7 then
    let e ← bcRead 8
    pure (e + 7)
  else if k = 8 then bcRead 16
  else pure k

/-- `raise CorruptStream` of a record's parse (R244). -/
def rbFail {α : Type} : Rb α := fun _ => none

/-- Go on only where a check holds. -/
def rbCheck (c : Bool) : Rb Unit := if c then pure () else rbFail

/-- The registry index a record designates (R246, R247). -/
def parseIndex (fb : Byte) (lastFilter regCount : Nat) : Rb Nat := do
  if fIndex fb then
    let v ← decodeVnum rbRead
    if v = 0 then
      rbCheck (regCount == 0)
      pure 0
    else pure (v.toNat - 1)
  else pure lastFilter

/-- The initial registers `init_r[i]` for the rising indices given (R254). -/
def parseRegs (mask : Nat) : List (Fin 7) → Vector Word 7 → Rb (Vector Word 7)
  | [], r => pure r
  | i :: is, r =>
    if mask.testBit i.val then do
      let v ← decodeVnum rbRead
      parseRegs mask is (r.set i v)
    else parseRegs mask is r

/-- `init_r` before the mask (R254). -/
def defaultRegs (blockLength ec : Word) : Vector Word 7 := #v[0, 0, 0, 0x3C000, blockLength, ec, 0]

/-- The program blob of a new program, compiled (R255). -/
def parseProgram (sigs : List Signature) : Rb FilterProgram := do
  let codeLen ← decodeVnum rbRead
  rbCheck (codeLen.toNat != 0 && decide (codeLen.toNat < 0x10000))
  let code ← readBytesWith rbRead codeLen.toNat
  match compileBlob sigs code with
  | some p => pure p
  | none => rbFail

/-- The user data (R255). -/
def parseUserData (fb : Byte) : Rb (List Byte) := do
  if fData fb then
    let n ← decodeVnum rbRead
    rbCheck (decide (n.toNat ≤ 0x1FC0))
    readBytesWith rbRead n.toNat
  else pure []

/-- The block length: read, or the last one of the program, or 0 (R253). -/
def parseLength (fb : Byte) (entry : Option RegEntry) : Rb Word :=
  if fLength fb then decodeVnum rbRead
  else pure (match entry with
    | some e => e.lastBlockLength
    | none => 0)

/-- The initial registers: the defaults, or those with the masked ones read (R254). -/
def parseInitRegs (fb : Byte) (blockLength ec : Word) : Rb (Vector Word 7) :=
  if fRegs fb then do
    let mask ← rbRead 7
    parseRegs mask (List.finRange 7) (defaultRegs blockLength ec)
  else pure (defaultRegs blockLength ec)

/-- The program of a record that defines one (R255). -/
def parseNewProgram (isNew : Bool) (sigs : List Signature) : Rb (Option FilterProgram) :=
  if isNew then do
    let p ← parseProgram sigs
    pure (some p)
  else pure none

/-- What a record asks for: an instance, and its program where the record defines one. -/
structure ParsedRecord where
  program : Option FilterProgram
  inst : FilterInstance
  deriving DecidableEq, Repr

/-- The parse of a record, its fields and checks in the order of R245. -/
def parseRecord (s : State) (fb : Byte) : Rb ParsedRecord := do
  let regCount := s.registry.length
  let idx ← parseIndex fb s.lastFilter.toNat regCount
  rbCheck (decide (idx ≤ regCount))
  let isNew := idx == regCount
  rbCheck (!(isNew && regCount == s.cfg.filtMax))
  let ec : Word := match s.registry[idx]? with
    | some e => e.execCount + 1
    | none => 0
  let off ← decodeVnum rbRead
  let blockStart := s.swb.wptr.toNat + off.toNat + (if fAdd258 fb then 258 else 0)
  let blockLength ← parseLength fb s.registry[idx]?
  rbCheck (decide (blockLength.toNat ≤ vmGlobal))
  rbCheck (decide (blockStart + blockLength.toNat ≤ s.host.unpackedSize.toNat))
  let initR ← parseInitRegs fb blockLength ec
  let program ← parseNewProgram isNew s.cfg.signatures
  let userData ← parseUserData fb
  pure
    { program := program
      inst := { prog := idx, blockStart := BitVec.ofNat 32 blockStart, blockLength := blockLength, execCount := ec,
                initR := initR, userData := userData } }

/-- The registry after a record: a new entry, or the referred entry's two words (R249, R251, R256). -/
def registerRecord (reg : List RegEntry) (r : ParsedRecord) : List RegEntry :=
  match r.program with
  | some p => reg ++ [{ prog := p, execCount := 0, lastBlockLength := r.inst.blockLength }]
  | none => reg.modify r.inst.prog fun e => { e with execCount := r.inst.execCount, lastBlockLength := r.inst.blockLength }

/-- The state after a record (R248, R256). -/
def State.enqueue (s : State) (r : ParsedRecord) : State :=
  { s with
    registry := registerRecord s.registry r
    lastFilter := BitVec.ofNat 32 r.inst.prog
    pend := s.pend ++ [r.inst] }

/-- A record after its filter-control byte: consumed whole from the payload, then parsed and enqueued (R243, R245). -/
def filterRecord (fb : Byte) : Op Unit := do
  let n ← readRecordLen fb
  let record ← bcReadFields n
  let s ← get
  match parseRecord s fb (bytesBits record) with
  | some (r, _) => set (s.enqueue r)
  | none => opRaise .corruptStream

/-- FILTER_CONTROL_BYTE with value `fb`: the rest of the record follows in the stream (R109, entry 26). -/
def execFilterControlByte (fb : Byte) (s : State) : Host.Outcome State Fault Refusal := runOp (filterRecord fb) s

end Sys2Proof.Machine
end

