-- ==== Sys2Proof/Machine/WindowOps.lean ====
section
/-! DEFINITION. SlidingWindowBuffer, OldDistanceRing and last match (42_window.md). -/

namespace Sys2Proof.Machine

/-- `HV`, the length of the visible history (R192). -/
def State.histVisible (s : State) : Nat := min s.host.hlen.toNat s.cfg.histMax

/-- The length of the window space, `HV + wptr` (R193). -/
def State.spaceLen (s : State) : Nat := s.histVisible + s.swb.wptr.toNat

/-- `L(i)` (R193). -/
def State.spaceByte (s : State) (i : Nat) : Byte :=
  if i < s.histVisible then s.host.hist.read (s.host.hlen.toNat - s.histVisible + i)
  else s.swb.mem.read (i - s.histVisible)

/-- `W[wptr] <- b; wptr <- wptr + 1`. -/
def Window.append (w : Window) (b : Byte) : Window := { mem := w.mem.write w.wptr.toNat b, wptr := w.wptr + 1 }

/-- The state with a byte appended to the window. -/
def State.emit (s : State) (b : Byte) : State := { s with swb := s.swb.append b }

/-- `Win.put(b)` (R195). -/
def winPut (b : Byte) : Op Unit := do
  let s ← get
  if s.swb.wptr = s.host.unpackedSize then opRaise .corruptStream
  else set (s.emit b)

/-- The steps of a copy: `L` is taken anew for each byte (R197). -/
def State.copyBytes (s : State) (dist : Nat) : Nat → State
  | 0 => s
  | n + 1 => State.copyBytes (s.emit (s.spaceByte (s.spaceLen - dist))) dist n

/-- The checks of a copy, in their order (R196). -/
def State.copyAllowed (s : State) (len dist : Word) : Bool :=
  dist != 0 && decide (dist.toNat ≤ s.spaceLen) && decide (s.swb.wptr.toNat + len.toNat ≤ s.host.unpackedSize.toNat)

/-- `Win.copy(len, dist)` (R196, R197): every failing check raises the same kind. -/
def winCopy (len dist : Word) : Op Unit := do
  let s ← get
  if s.copyAllowed len dist then set (s.copyBytes dist.toNat len.toNat)
  else opRaise .corruptStream

/-- `Ring.insert(d)` on the ring (R200). -/
def insertRing (r : Vector Word 4) (d : Word) : Vector Word 4 := #v[d, r[0], r[1], r[2]]

/-- `Ring.select(k)` on the ring: entry `k` moves to the front (R201). -/
def selectRing (r : Vector Word 4) (k : Fin 4) : Vector Word 4 :=
  Vector.ofFn fun i => if i = 0 then r.get k else if i ≤ k then r.get (i - 1) else r.get i

/-- `Ring.insert(d)` (R200). -/
def ringInsert (d : Word) : Op Unit := modify fun s => { s with ring := insertRing s.ring d }

/-- `Ring.select(k)` (R201). -/
def ringSelect (k : Fin 4) : Op Word := do
  let s ← get
  set { s with ring := selectRing s.ring k }
  pure (s.ring.get k)

/-- `SetLast(len, dist)` (R203). -/
def setLast (len dist : Word) : Op Unit := modify fun s => { s with last := { len := len, dist := dist } }

end Sys2Proof.Machine
end

