-- ==== Sys2Proof/Machine/Symbols.lean ====
section
/-! DEFINITION. The symbols of the main alphabet LD (43_unpack_engine.md R227 to R239). -/

namespace Sys2Proof.Machine

/-- `BC.read(n)`, none issued for a width of 0 (R234). -/
def readExtra (n : Nat) : Op Nat := if n = 0 then pure 0 else bcRead n

/-- `LowDist()` (R229). -/
def lowDist : Op Nat := do
  let s ← get
  if s.low.rep ≠ 0 then
    set { s with low := { s.low with rep := s.low.rep - 1 } }
    pure s.low.prev.toNat
  else
    let x ← decodeSym .ldd
    if x = 16 then
      modify fun s => { s with low := { s.low with rep := 15 } }
      let s ← get
      pure s.low.prev.toNat
    else
      modify fun s => { s with low := { s.low with prev := BitVec.ofNat 4 x } }
      pure x

/-- `Bump(dist)` (R230). -/
def bump (dist : Nat) : Nat := if dist < 0x2000 then 0 else if dist < 0x40000 then 1 else 2

/-- The distance after DD symbol `d` (R228, 30_encoding.md R105). -/
def readDistance (d : Nat) : Op Nat := do
  let b := dbits d
  let base := dbase d + 1
  if b = 0 then pure base
  else if b ≤ 3 then
    let x ← bcRead b
    pure (base + x)
  else
    let x ← readExtra (b - 4)
    let l ← lowDist
    pure (base + 16 * x + l)

/-- `MATCHq` (R228). -/
def matchOp (q : Nat) : Op Unit := do
  let x ← readExtra (lbits q)
  let d ← decodeSym .dd
  let dist ← readDistance d
  let len := BitVec.ofNat 32 (lbase q + 3 + x + bump dist)
  ringInsert (BitVec.ofNat 32 dist)
  setLast len (BitVec.ofNat 32 dist)
  winCopy len (BitVec.ofNat 32 dist)

/-- `REPDk` (R232). -/
def repdOp (k : Fin 4) : Op Unit := do
  let dist ← ringSelect k
  let r ← decodeSym .rd
  let x ← readExtra (lbits r)
  let len := BitVec.ofNat 32 (lbase r + 2 + x)
  setLast len dist
  winCopy len dist

/-- `SHORTj` (R233). -/
def shortOp (j : Nat) : Op Unit := do
  let x ← bcRead (sdbits j)
  let dist := BitVec.ofNat 32 (sdbase j + 1 + x)
  ringInsert dist
  setLast 2 dist
  winCopy 2 dist

/-- `REPL` (R231). -/
def replOp : Op Unit := do
  let s ← get
  if s.last.len = 0 then pure () else winCopy s.last.len s.last.dist

/-- `LIT` (R227). -/
def litOp (b : Byte) : Op Unit := winPut b

/-- `Done` (R239). -/
def State.complete (s : State) : State :=
  { s with ue := .done, host := { s.host with status := .done, progress := s.swb.wptr } }

/-- `EOB` (R235). -/
def eobOp : Op Unit := do
  let c0 ← bcRead 1
  if c0 = 1 then
    modify fun s => { s with ue := .readingTables, hdr := .start, host := { s.host with progress := s.swb.wptr } }
  else
    let _ ← bcRead 1
    drain
    let s ← get
    if s.swb.wptr = s.host.unpackedSize then set s.complete else opRaise .corruptStream

/-- `FILT` (R236, R243). -/
def filtOp : Op Unit := do
  let fb ← bcRead 8
  filterRecord (BitVec.ofNat 8 fb)

/-- LIT as an instruction. -/
def execLit (b : Byte) (s : State) : Host.Outcome State Fault Refusal := runOp (litOp b) s
/-- EOB as an instruction. -/
def execEob (s : State) : Host.Outcome State Fault Refusal := runOp eobOp s
/-- FILT as an instruction. -/
def execFilt (s : State) : Host.Outcome State Fault Refusal := runOp filtOp s
/-- REPL as an instruction. -/
def execRepl (s : State) : Host.Outcome State Fault Refusal := runOp replOp s
/-- REPD0 as an instruction. -/
def execRepd0 (s : State) : Host.Outcome State Fault Refusal := runOp (repdOp 0) s
/-- REPD1 as an instruction. -/
def execRepd1 (s : State) : Host.Outcome State Fault Refusal := runOp (repdOp 1) s
/-- REPD2 as an instruction. -/
def execRepd2 (s : State) : Host.Outcome State Fault Refusal := runOp (repdOp 2) s
/-- REPD3 as an instruction. -/
def execRepd3 (s : State) : Host.Outcome State Fault Refusal := runOp (repdOp 3) s
/-- SHORT0 as an instruction. -/
def execShort0 (s : State) : Host.Outcome State Fault Refusal := runOp (shortOp 0) s
/-- SHORT1 as an instruction. -/
def execShort1 (s : State) : Host.Outcome State Fault Refusal := runOp (shortOp 1) s
/-- SHORT2 as an instruction. -/
def execShort2 (s : State) : Host.Outcome State Fault Refusal := runOp (shortOp 2) s
/-- SHORT3 as an instruction. -/
def execShort3 (s : State) : Host.Outcome State Fault Refusal := runOp (shortOp 3) s
/-- SHORT4 as an instruction. -/
def execShort4 (s : State) : Host.Outcome State Fault Refusal := runOp (shortOp 4) s
/-- SHORT5 as an instruction. -/
def execShort5 (s : State) : Host.Outcome State Fault Refusal := runOp (shortOp 5) s
/-- SHORT6 as an instruction. -/
def execShort6 (s : State) : Host.Outcome State Fault Refusal := runOp (shortOp 6) s
/-- SHORT7 as an instruction. -/
def execShort7 (s : State) : Host.Outcome State Fault Refusal := runOp (shortOp 7) s
/-- MATCH0 as an instruction. -/
def execMatch0 (s : State) : Host.Outcome State Fault Refusal := runOp (matchOp 0) s
/-- MATCH1 as an instruction. -/
def execMatch1 (s : State) : Host.Outcome State Fault Refusal := runOp (matchOp 1) s
/-- MATCH2 as an instruction. -/
def execMatch2 (s : State) : Host.Outcome State Fault Refusal := runOp (matchOp 2) s
/-- MATCH3 as an instruction. -/
def execMatch3 (s : State) : Host.Outcome State Fault Refusal := runOp (matchOp 3) s
/-- MATCH4 as an instruction. -/
def execMatch4 (s : State) : Host.Outcome State Fault Refusal := runOp (matchOp 4) s
/-- MATCH5 as an instruction. -/
def execMatch5 (s : State) : Host.Outcome State Fault Refusal := runOp (matchOp 5) s
/-- MATCH6 as an instruction. -/
def execMatch6 (s : State) : Host.Outcome State Fault Refusal := runOp (matchOp 6) s
/-- MATCH7 as an instruction. -/
def execMatch7 (s : State) : Host.Outcome State Fault Refusal := runOp (matchOp 7) s
/-- MATCH8 as an instruction. -/
def execMatch8 (s : State) : Host.Outcome State Fault Refusal := runOp (matchOp 8) s
/-- MATCH9 as an instruction. -/
def execMatch9 (s : State) : Host.Outcome State Fault Refusal := runOp (matchOp 9) s
/-- MATCH10 as an instruction. -/
def execMatch10 (s : State) : Host.Outcome State Fault Refusal := runOp (matchOp 10) s
/-- MATCH11 as an instruction. -/
def execMatch11 (s : State) : Host.Outcome State Fault Refusal := runOp (matchOp 11) s
/-- MATCH12 as an instruction. -/
def execMatch12 (s : State) : Host.Outcome State Fault Refusal := runOp (matchOp 12) s
/-- MATCH13 as an instruction. -/
def execMatch13 (s : State) : Host.Outcome State Fault Refusal := runOp (matchOp 13) s
/-- MATCH14 as an instruction. -/
def execMatch14 (s : State) : Host.Outcome State Fault Refusal := runOp (matchOp 14) s
/-- MATCH15 as an instruction. -/
def execMatch15 (s : State) : Host.Outcome State Fault Refusal := runOp (matchOp 15) s
/-- MATCH16 as an instruction. -/
def execMatch16 (s : State) : Host.Outcome State Fault Refusal := runOp (matchOp 16) s
/-- MATCH17 as an instruction. -/
def execMatch17 (s : State) : Host.Outcome State Fault Refusal := runOp (matchOp 17) s
/-- MATCH18 as an instruction. -/
def execMatch18 (s : State) : Host.Outcome State Fault Refusal := runOp (matchOp 18) s
/-- MATCH19 as an instruction. -/
def execMatch19 (s : State) : Host.Outcome State Fault Refusal := runOp (matchOp 19) s
/-- MATCH20 as an instruction. -/
def execMatch20 (s : State) : Host.Outcome State Fault Refusal := runOp (matchOp 20) s
/-- MATCH21 as an instruction. -/
def execMatch21 (s : State) : Host.Outcome State Fault Refusal := runOp (matchOp 21) s
/-- MATCH22 as an instruction. -/
def execMatch22 (s : State) : Host.Outcome State Fault Refusal := runOp (matchOp 22) s
/-- MATCH23 as an instruction. -/
def execMatch23 (s : State) : Host.Outcome State Fault Refusal := runOp (matchOp 23) s
/-- MATCH24 as an instruction. -/
def execMatch24 (s : State) : Host.Outcome State Fault Refusal := runOp (matchOp 24) s
/-- MATCH25 as an instruction. -/
def execMatch25 (s : State) : Host.Outcome State Fault Refusal := runOp (matchOp 25) s
/-- MATCH26 as an instruction. -/
def execMatch26 (s : State) : Host.Outcome State Fault Refusal := runOp (matchOp 26) s
/-- MATCH27 as an instruction. -/
def execMatch27 (s : State) : Host.Outcome State Fault Refusal := runOp (matchOp 27) s

end Sys2Proof.Machine
end

