-- ==== Sys2Proof/Machine/UnitOps.lean ====
section
/-! DEFINITION. The operations of the units as instructions (40_bitcursor.md, 41_huffman.md, 42_window.md,
43_unpack_engine.md section 5, 44_fvm_program.md). An operation with a result leaves it on the result port (entry 3). -/

namespace Sys2Proof.Machine

/-- BC.PEEK (40_bitcursor.md R142). -/
def execBcPeek (n : Fin 33) (s : State) : Host.Outcome State Fault Refusal :=
  runOp (latch do
    let v ← bcPeek n.val
    pure (.word (BitVec.ofNat 32 v))) s

/-- BC.READ (40_bitcursor.md R143). -/
def execBcRead (n : Fin 33) (s : State) : Host.Outcome State Fault Refusal :=
  runOp (latch do
    let v ← bcRead n.val
    pure (.word (BitVec.ofNat 32 v))) s

/-- BC.ALIGN (40_bitcursor.md R146). -/
def execBcAlign (s : State) : Host.Outcome State Fault Refusal := runOp bcAlign s

/-- BC.READ_BYTES (40_bitcursor.md R147). -/
def execBcReadBytes (n : Word) (s : State) : Host.Outcome State Fault Refusal :=
  runOp (latch do
    let bs ← bcReadBytes n.toNat
    pure (.bytes bs)) s

/-- HTB.BUILD (41_huffman.md R160). -/
def execHtbBuild (t : TableId) (len : List (BitVec 4)) (s : State) : Host.Outcome State Fault Refusal :=
  runOp (htbBuild t len) s

/-- SD.DECODE (41_huffman.md R175, R176). -/
def execSdDecode (t : TableId) (s : State) : Host.Outcome State Fault Refusal :=
  runOp (latch do
    let x ← decodeSym t
    pure (.symbol x)) s

/-- SWB.PUT (42_window.md R195). -/
def execSwbPut (b : Byte) (s : State) : Host.Outcome State Fault Refusal := runOp (winPut b) s

/-- SWB.COPY (42_window.md R197). -/
def execSwbCopy (len dist : Word) (s : State) : Host.Outcome State Fault Refusal := runOp (winCopy len dist) s

/-- RING.INSERT (42_window.md R200). -/
def execRingInsert (d : Word) (s : State) : Host.Outcome State Fault Refusal := runOp (ringInsert d) s

/-- RING.SELECT (42_window.md R201). -/
def execRingSelect (k : Fin 4) (s : State) : Host.Outcome State Fault Refusal :=
  runOp (latch do
    let d ← ringSelect k
    pure (.word d)) s

/-- SETLAST (42_window.md R203). -/
def execSetLast (len dist : Word) (s : State) : Host.Outcome State Fault Refusal := runOp (setLast len dist) s

/-- UE.DRAIN (43_unpack_engine.md R259). -/
def execUeDrain (s : State) : Host.Outcome State Fault Refusal := runOp drain s

/-- UE.APPLY (43_unpack_engine.md R260 to R262). -/
def execUeApply (i : FilterInstance) (s : State) : Host.Outcome State Fault Refusal := runOp (applyInstance i) s

/-- FVM.COMPILE (44_fvm_program.md R280). -/
def compileOp (code : List Byte) : Op UnitResult := do
  let s ← get
  match compileBlob s.cfg.signatures code with
  | some p => pure (.program p)
  | none => opRaise .corruptStream

/-- FVM.COMPILE as an instruction. -/
def execFvmCompile (code : List Byte) (s : State) : Host.Outcome State Fault Refusal := runOp (latch (compileOp code)) s

/-- FVM.EXEC: the program is the one the instance names (44_fvm_program.md R287 to R292). -/
def execFvmExec (i : FilterInstance) (d : List Byte) (s : State) : Host.Outcome State Fault Refusal :=
  runOp (latch do
    let p ← lookupProgram i
    let f ← fvmExec p i d
    pure (.bytes f)) s

end Sys2Proof.Machine
end

