-- ==== Sys2Proof/Machine/Dispatch.lean ====
section
/-! DEFINITION. The meaning of every instruction, one arm per constructor. -/

namespace Sys2Proof.Machine

def exec (i : Instr) (s : State) : Host.Outcome State Fault Refusal :=
  match i with
  | .mov bm op1 op2 => Sys2Proof.Machine.execMov bm op1 op2 s
  | .cmp bm op1 op2 => Sys2Proof.Machine.execCmp bm op1 op2 s
  | .add bm op1 op2 => Sys2Proof.Machine.execAdd bm op1 op2 s
  | .sub bm op1 op2 => Sys2Proof.Machine.execSub bm op1 op2 s
  | .jz op1 => Sys2Proof.Machine.execJz op1 s
  | .jnz op1 => Sys2Proof.Machine.execJnz op1 s
  | .inc bm op1 => Sys2Proof.Machine.execInc bm op1 s
  | .dec bm op1 => Sys2Proof.Machine.execDec bm op1 s
  | .jmp op1 => Sys2Proof.Machine.execJmp op1 s
  | .bxor bm op1 op2 => Sys2Proof.Machine.execBxor bm op1 op2 s
  | .band bm op1 op2 => Sys2Proof.Machine.execBand bm op1 op2 s
  | .bor bm op1 op2 => Sys2Proof.Machine.execBor bm op1 op2 s
  | .test bm op1 op2 => Sys2Proof.Machine.execTest bm op1 op2 s
  | .js op1 => Sys2Proof.Machine.execJs op1 s
  | .jns op1 => Sys2Proof.Machine.execJns op1 s
  | .jb op1 => Sys2Proof.Machine.execJb op1 s
  | .jbe op1 => Sys2Proof.Machine.execJbe op1 s
  | .ja op1 => Sys2Proof.Machine.execJa op1 s
  | .jae op1 => Sys2Proof.Machine.execJae op1 s
  | .push op1 => Sys2Proof.Machine.execPush op1 s
  | .pop op1 => Sys2Proof.Machine.execPop op1 s
  | .call op1 => Sys2Proof.Machine.execCall op1 s
  | .ret => Sys2Proof.Machine.execRet s
  | .bnot bm op1 => Sys2Proof.Machine.execBnot bm op1 s
  | .shl bm op1 op2 => Sys2Proof.Machine.execShl bm op1 op2 s
  | .shr bm op1 op2 => Sys2Proof.Machine.execShr bm op1 op2 s
  | .sar bm op1 op2 => Sys2Proof.Machine.execSar bm op1 op2 s
  | .neg bm op1 => Sys2Proof.Machine.execNeg bm op1 s
  | .pusha => Sys2Proof.Machine.execPusha s
  | .popa => Sys2Proof.Machine.execPopa s
  | .pushf => Sys2Proof.Machine.execPushf s
  | .popf => Sys2Proof.Machine.execPopf s
  | .movzx op1 op2 => Sys2Proof.Machine.execMovzx op1 op2 s
  | .movsx op1 op2 => Sys2Proof.Machine.execMovsx op1 op2 s
  | .xchg bm op1 op2 => Sys2Proof.Machine.execXchg bm op1 op2 s
  | .mul bm op1 op2 => Sys2Proof.Machine.execMul bm op1 op2 s
  | .div bm op1 op2 => Sys2Proof.Machine.execDiv bm op1 op2 s
  | .adc bm op1 op2 => Sys2Proof.Machine.execAdc bm op1 op2 s
  | .sbb bm op1 op2 => Sys2Proof.Machine.execSbb bm op1 op2 s
  | .print => Sys2Proof.Machine.execPrint s
  | .standard kind => Sys2Proof.Machine.execStandard kind s
  | .nativeE8 => Sys2Proof.Machine.execNativeE8 s
  | .nativeE8E9 => Sys2Proof.Machine.execNativeE8E9 s
  | .nativeItanium => Sys2Proof.Machine.execNativeItanium s
  | .nativeDelta => Sys2Proof.Machine.execNativeDelta s
  | .nativeRgb => Sys2Proof.Machine.execNativeRgb s
  | .nativeAudio => Sys2Proof.Machine.execNativeAudio s
  | .nativeUpcase => Sys2Proof.Machine.execNativeUpcase s
  | .operandReg bm r => Sys2Proof.Machine.execOperandReg bm r s
  | .operandImm bm d => Sys2Proof.Machine.execOperandImm bm d s
  | .operandRegmem0 bm r => Sys2Proof.Machine.execOperandRegmem0 bm r s
  | .operandRegmemB bm r b => Sys2Proof.Machine.execOperandRegmemB bm r b s
  | .operandAbsmem bm b => Sys2Proof.Machine.execOperandAbsmem bm b s
  | .vnum00 x => Sys2Proof.Machine.execVnum00 x s
  | .vnum01 h l => Sys2Proof.Machine.execVnum01 h l s
  | .vnum01h0 x => Sys2Proof.Machine.execVnum01h0 x s
  | .vnum10 x => Sys2Proof.Machine.execVnum10 x s
  | .vnum11 x => Sys2Proof.Machine.execVnum11 x s
  | .lit b => Sys2Proof.Machine.execLit b s
  | .eob => Sys2Proof.Machine.execEob s
  | .filt => Sys2Proof.Machine.execFilt s
  | .repl => Sys2Proof.Machine.execRepl s
  | .repd0 => Sys2Proof.Machine.execRepd0 s
  | .repd1 => Sys2Proof.Machine.execRepd1 s
  | .repd2 => Sys2Proof.Machine.execRepd2 s
  | .repd3 => Sys2Proof.Machine.execRepd3 s
  | .short0 => Sys2Proof.Machine.execShort0 s
  | .short1 => Sys2Proof.Machine.execShort1 s
  | .short2 => Sys2Proof.Machine.execShort2 s
  | .short3 => Sys2Proof.Machine.execShort3 s
  | .short4 => Sys2Proof.Machine.execShort4 s
  | .short5 => Sys2Proof.Machine.execShort5 s
  | .short6 => Sys2Proof.Machine.execShort6 s
  | .short7 => Sys2Proof.Machine.execShort7 s
  | .match0 => Sys2Proof.Machine.execMatch0 s
  | .match1 => Sys2Proof.Machine.execMatch1 s
  | .match2 => Sys2Proof.Machine.execMatch2 s
  | .match3 => Sys2Proof.Machine.execMatch3 s
  | .match4 => Sys2Proof.Machine.execMatch4 s
  | .match5 => Sys2Proof.Machine.execMatch5 s
  | .match6 => Sys2Proof.Machine.execMatch6 s
  | .match7 => Sys2Proof.Machine.execMatch7 s
  | .match8 => Sys2Proof.Machine.execMatch8 s
  | .match9 => Sys2Proof.Machine.execMatch9 s
  | .match10 => Sys2Proof.Machine.execMatch10 s
  | .match11 => Sys2Proof.Machine.execMatch11 s
  | .match12 => Sys2Proof.Machine.execMatch12 s
  | .match13 => Sys2Proof.Machine.execMatch13 s
  | .match14 => Sys2Proof.Machine.execMatch14 s
  | .match15 => Sys2Proof.Machine.execMatch15 s
  | .match16 => Sys2Proof.Machine.execMatch16 s
  | .match17 => Sys2Proof.Machine.execMatch17 s
  | .match18 => Sys2Proof.Machine.execMatch18 s
  | .match19 => Sys2Proof.Machine.execMatch19 s
  | .match20 => Sys2Proof.Machine.execMatch20 s
  | .match21 => Sys2Proof.Machine.execMatch21 s
  | .match22 => Sys2Proof.Machine.execMatch22 s
  | .match23 => Sys2Proof.Machine.execMatch23 s
  | .match24 => Sys2Proof.Machine.execMatch24 s
  | .match25 => Sys2Proof.Machine.execMatch25 s
  | .match26 => Sys2Proof.Machine.execMatch26 s
  | .match27 => Sys2Proof.Machine.execMatch27 s
  | .mdLen l => Sys2Proof.Machine.execMdLen l s
  | .mdRepPrev3 => Sys2Proof.Machine.execMdRepPrev3 s
  | .mdRepPrev11 => Sys2Proof.Machine.execMdRepPrev11 s
  | .mdRepZero3 => Sys2Proof.Machine.execMdRepZero3 s
  | .mdRepZero11 => Sys2Proof.Machine.execMdRepZero11 s
  | .blockHeader => Sys2Proof.Machine.execBlockHeader s
  | .filterControlByte fb => Sys2Proof.Machine.execFilterControlByte fb s
  | .bcPeek n => Sys2Proof.Machine.execBcPeek n s
  | .bcRead n => Sys2Proof.Machine.execBcRead n s
  | .bcAlign => Sys2Proof.Machine.execBcAlign s
  | .bcReadBytes n => Sys2Proof.Machine.execBcReadBytes n s
  | .htbBuild t len => Sys2Proof.Machine.execHtbBuild t len s
  | .sdDecode t => Sys2Proof.Machine.execSdDecode t s
  | .swbPut b => Sys2Proof.Machine.execSwbPut b s
  | .swbCopy len dist => Sys2Proof.Machine.execSwbCopy len dist s
  | .ringInsert d => Sys2Proof.Machine.execRingInsert d s
  | .ringSelect k => Sys2Proof.Machine.execRingSelect k s
  | .setLast len dist => Sys2Proof.Machine.execSetLast len dist s
  | .ueDrain => Sys2Proof.Machine.execUeDrain s
  | .ueApply inst => Sys2Proof.Machine.execUeApply inst s
  | .fvmCompile code => Sys2Proof.Machine.execFvmCompile code s
  | .fvmExec inst d => Sys2Proof.Machine.execFvmExec inst d s

end Sys2Proof.Machine
end

