-- ==== Sys2Proof/Machine/HostPort.lean ====
section
/-! DEFINITION. The host's side of the interface (10_state.md R26 to R31, 70_reset_and_hazards.md R442 to R447). The host
acts between steps; what it may not do is refused (entry 17). -/

namespace Sys2Proof.Machine

/-- A session is running or asked for: `STATUS` is BUSY, or CORE has not yet taken a write of `CTRL.START` (entries 10
and 17). -/
def State.sessionOpen (s : State) : Bool := s.host.ctrlStart || s.host.status == .busy

/-- A write by the host: refused while a session is open (R445), and where a size would pass `SIZE_MAX` (R444). -/
def State.hostWrite (s : State) (sizes : List Nat) (h : HostPort) : Except Refusal State :=
  if s.sessionOpen then .error .hostBusy
  else if sizes.any fun n => decide (Config.sizeMax < n) then .error .aboveSizeMax
  else .ok { s with host := h }

/-- The host writes the four arguments of `decode` (R443). -/
def State.hostArguments (s : State) (method : BitVec 8) (unpackedSize : Word) (payload hist : List Byte) :
    Except Refusal State :=
  s.hostWrite [payload.length, hist.length]
    { s.host with
      method := method
      unpackedSize := unpackedSize
      plen := BitVec.ofNat 32 payload.length
      payload := Memory.writeRange [] 0 payload
      hlen := BitVec.ofNat 32 hist.length
      hist := Memory.writeRange [] 0 hist }

/-- The host writes 1 to `CTRL.START`; CORE takes it at its next step (R31, entry 10). -/
def State.hostStart (s : State) : State := { s with host := { s.host with ctrlStart := true } }

/-- The host reads `OUT`: defined in status DONE, until the next `CTRL.START` (R29, R447, entry 19). Its length is
`UNPACKED_SIZE` as it stands at the read: DESIGN CHOICE where the host has rewritten that argument since DONE (R443; unsafe,
entry 30): a smaller size shortens `OUT`, a larger one shows the bytes of `W` at and above `wptr` as `memDefault`. -/
def State.hostReadOut (s : State) : Except Refusal (List Byte) :=
  if s.host.status = .done ∧ s.host.ctrlStart = false then .ok (s.swb.mem.readRange 0 s.host.unpackedSize.toNat)
  else .error .outNotExposed

/-- The host appends the finished output to the history chain (R446). -/
def State.hostAppendHistory (s : State) (out : List Byte) : Except Refusal State :=
  s.hostWrite [s.host.hlen.toNat + out.length]
    { s.host with
      hist := s.host.hist.writeRange s.host.hlen.toNat out
      hlen := s.host.hlen + BitVec.ofNat 32 out.length }

/-- The power-on reset, at any time: the session is lost; what the host wrote stands (R53, R442, entry 20). -/
def State.hostPowerOn (s : State) : State :=
  { State.reset with
    cfg := s.cfg
    host := { s.host with ctrlStart := false, status := .idle, errKind := 0, progress := 0 } }

end Sys2Proof.Machine
end

