-- ==== Sys2Proof/Machine/Sequencer.lean ====
section
/-! DEFINITION. The UnpackEngine's sequencer: session start, method STORED, the checkpoint, and what the next step fetches
(43_unpack_engine.md R215 to R219, R227; 44_fvm_program.md R289 to R291). -/

namespace Sys2Proof.Machine

/-- What the next step does: an action of the sequencer, or the fetch of an instruction to execute. -/
inductive Plan where
  | act (m : Op Unit)
  | fetch (m : Op Instr)

/-- The entry state of `METHOD` (R216, R217). -/
def enterMethod : Op Unit := do
  let s ← get
  if s.host.method = 0 then set { s with ue := .stored }
  else if s.host.method = 2 then throw (.refuse .methodV20)
  else if s.host.method = 3 then set { s with ue := .readingTables }
  else opRaise .unsupportedMethod

/-- CORE takes a write of `CTRL.START`: ignored while BUSY (70_reset_and_hazards.md R442), else a session starts (10_state.md
R52). -/
def startOp : Op Unit := do
  let s ← get
  if s.host.status = .busy then set { s with host := { s.host with ctrlStart := false } }
  else
    set s.sessionReset
    enterMethod

/-- Method STORED (R219). -/
def storedOp : Op Unit := do
  let s ← get
  let bs ← bcReadBytes s.host.unpackedSize.toNat
  modify fun s => { s with swb := { mem := s.swb.mem.writeRange 0 bs, wptr := s.host.unpackedSize } }
  modify State.complete

/-- The instruction of the next LD symbol (R227). A number outside the alphabet is a symbol out of valid range
(60_exceptions.md R414, entry 23). -/
def fetchLd : Op Instr := do
  let x ← decodeSym .ld
  match ldInstr x with
  | .ok i => pure i
  | .error _ => opRaise .corruptStream

/-- The instruction of the next MD symbol (R224). -/
def fetchMd : Op Instr := do
  let x ← decodeSym .md
  match mdInstr x with
  | .ok i => pure i
  | .error _ => opRaise .corruptStream

/-- The next command of a program: the ceiling, the count, the command (44_fvm_program.md R289, R291). -/
def fetchCommand (c : Instr) : Op Instr := do
  let s ← get
  if s.fvm.ops < s.cfg.fvmMaxOps then
    set { s with fvm := s.fvm.countOp }
    if c.isCommand then pure c else throw (.fault .notACommand)
  else opRaise .filterOverrun

/-- The end of an Apply: write-back, and the head leaves the queue (R259, R262). -/
def finishHead (i : FilterInstance) : Op Unit := do
  applyFinish i
  modify State.popPend

/-- The checkpoint, one pending instance a step (R218, R259). -/
def checkpoint (s : State) (next : Op Instr) : Plan :=
  let rest := if s.swb.wptr = s.host.unpackedSize then Plan.act (modify State.complete) else Plan.fetch next
  match s.pend with
  | [] => rest
  | i :: _ => if s.ready i then .act (applyStart i) else rest

/-- The head instance and its program, while a filter runs. -/
def State.running (s : State) : Option (FilterInstance × FilterProgram) :=
  match s.pend with
  | [] => none
  | i :: _ => (s.registry[i.prog]?).map fun e => (i, e.prog)

/-- A running filter: an ended execution is finished, else the next command is fetched (44_fvm_program.md R289, R290). -/
def planFilter (s : State) : Plan :=
  match s.running with
  | none => .act (throw (.fault .noSuchProgram))
  | some (i, p) =>
    if s.fvm.ended then .act (finishHead i)
    else match p.cmds[s.fvm.ip.toNat]? with
      | none => .act (finishHead i)
      | some c => .fetch (fetchCommand c)

/-- The plan of a state (R215). -/
def plan (s : State) : Plan :=
  if s.host.ctrlStart then .act startOp
  else match s.ue with
    | .idle => .act (pure ())
    | .done => .act (pure ())
    | .failed => .act (pure ())
    | .stored => .act storedOp
    | .readingTables =>
      match s.hdr with
      | .start => checkpoint s (pure .blockHeader)
      | .lengths => .fetch fetchMd
    | .decodingSymbols => checkpoint s fetchLd
    | .applyFilter => planFilter s

/-- The instance `withFetchWord` places: program 0 on an empty range (entry 9). -/
def fetchInstance : FilterInstance :=
  { prog := 0, blockStart := 0, blockLength := 0, execCount := 0, initR := #v[0, 0, 0, 0, 0, 0, 0], userData := [] }

/-- A running filter whose next command is `i` (entry 9). -/
def State.placeCommand (s : State) (i : Instr) : State :=
  { s with
    host := { s.host with ctrlStart := false, status := .busy }
    ue := .applyFilter
    ret := .decodingSymbols
    registry := [{ prog := { cmds := [i, .ret], staticData := [] }, execCount := 0, lastBlockLength := 0 }]
    pend := [fetchInstance]
    fvm := { s.fvm with ip := 0, ops := 0, ended := false } }

end Sys2Proof.Machine
end

