-- ==== Sys2Proof/Machine/Step.lean ====
section
/-! DEFINITION. One step of CORE: what `plan` says, and where that is a fetch, the fetched instruction's meaning on the
state after its fetch. -/

namespace Sys2Proof.Machine

/-- One step. -/
def step (s : State) : Host.Outcome State Fault Refusal :=
  match plan s with
  | .act m => runOp m s
  | .fetch m =>
    match m s with
    | .ok i t => exec i t
    | .error (.raise k) t => .next (t.raise k)
    | .error (.fault r) _ => .fault r
    | .error (.refuse r) _ => .refused r

/-- The state whose next step fetches and runs the command of a table word: a filter at command index 0 of a program that
holds that command and the final RET. It stands for the load of a program, which in CORE is the compile of a filter record
(entry 9). -/
def State.withFetchWord (s : State) (nbits w : Nat) : State :=
  match decodeTableWord nbits w with
  | some i => s.placeCommand i
  | none => s

end Sys2Proof.Machine
end

