-- ==== Sys2Proof/Safety.lean ====
section
/-! DEFINITION. What the statements speak of: what stays the same, the invariants of a state, runs, and the tables of the
stream's instructions. -/

namespace Sys2Proof.Machine

/-- Outside the FVM, `t` is `s` (20_memory.md R61). -/
def State.SameButFvm (s t : State) : Prop := t = { s with fvm := t.fvm }

/-- What the host wrote, and the parameters, are the same (10_state.md R26 to R30). -/
def State.SameArguments (s t : State) : Prop :=
  t.cfg = s.cfg ∧ t.host.method = s.host.method ∧ t.host.unpackedSize = s.host.unpackedSize ∧
    t.host.plen = s.host.plen ∧ t.host.payload = s.host.payload ∧ t.host.hlen = s.host.hlen ∧ t.host.hist = s.host.hist

/-- The four memories are in their canonical form. -/
abbrev State.MemoriesWf (s : State) : Prop :=
  s.host.payload.wf = true ∧ s.host.hist.wf = true ∧ s.swb.mem.wf = true ∧ s.fvm.mem.wf = true

/-- `Mem` lists no address outside its 0x40000 bytes (20_memory.md R66). -/
abbrev State.MemInSpace (s : State) : Prop := ∀ c ∈ s.fvm.mem, c.1 < vmMemSize

/-- The stream position never passes the end (10_state.md R32, 40_bitcursor.md R144). -/
abbrev State.CursorOk (s : State) : Prop := s.pos ≤ s.endPos

/-- The write cursor never passes the declared size (10_state.md R39). -/
abbrev State.WindowOk (s : State) : Prop := s.swb.wptr.toNat ≤ s.host.unpackedSize.toNat

/-- The states of a session in progress (10_state.md R25). -/
def UeState.active : UeState → Bool
  | .stored => true
  | .readingTables => true
  | .decodingSymbols => true
  | .applyFilter => true
  | _ => false

/-- `STATUS`, `ERR_KIND` and `ue_state` agree (10_state.md R31, 43_unpack_engine.md R215, R239, 60_exceptions.md R415), and a
running filter knows where to return. -/
abbrev State.PhaseOk (s : State) : Prop :=
  (s.host.status = .idle ↔ s.ue = .idle) ∧ (s.host.status = .busy ↔ s.ue.active = true) ∧
    (s.host.status = .done ↔ s.ue = .done) ∧ (s.host.status = .error ↔ s.ue = .failed) ∧
    (s.host.status = .error ↔ s.host.errKind ≠ 0) ∧
    (s.ue = .applyFilter → s.ret = .readingTables ∨ s.ret = .decodingSymbols)

/-- An instance a record can have enqueued (43_unpack_engine.md R248, R253, R255). -/
abbrev State.InstanceOk (s : State) (i : FilterInstance) : Prop :=
  i.prog < s.registry.length ∧ i.wf = true ∧ i.blockStart.toNat + i.blockLength.toNat ≤ s.host.unpackedSize.toNat

/-- The programs hold commands only and are not empty (44_fvm_program.md R286); the queue names programs of the registry and
ranges of the output; a running filter's instance is the head of the queue and its range is produced
(43_unpack_engine.md R259). -/
abbrev State.QueueOk (s : State) : Prop :=
  (∀ e ∈ s.registry, e.prog.cmds ≠ [] ∧ e.prog.cmds.all Instr.isCommand = true) ∧
    (∀ i ∈ s.pend, s.InstanceOk i) ∧
    (s.ue = .applyFilter → (s.pend.head?.any fun i => s.ready i) = true)

/-- Every symbol a table can give belongs to its alphabet (10_state.md R33, R34). -/
abbrev State.TablesOk (s : State) : Prop :=
  ∀ i ∈ [TableId.ld, .dd, .ldd, .rd, .md], ∀ x ∈ (s.tables.select i).decodeNum, x < tableSize i

/-- The count of commands stays at or below the ceiling (44_fvm_program.md R291). -/
abbrev State.OpsOk (s : State) : Prop := s.fvm.ops ≤ s.cfg.fvmMaxOps

/-- The invariant under which no step faults. -/
abbrev State.Inv (s : State) : Prop := s.PhaseOk ∧ s.QueueOk ∧ s.TablesOk

/-- `k` calls of `Decode(T)`, their symbols in order (41_huffman.md R180). -/
def decodeSyms (t : TableId) : Nat → Op (List Nat)
  | 0 => pure []
  | k + 1 => do
    let x ← decodeSym t
    let xs ← decodeSyms t k
    pure (x :: xs)

/-- `k` steps. -/
def runSteps : Nat → State → Host.Outcome State Fault Refusal
  | 0, s => .next s
  | k + 1, s =>
    match step s with
    | .next t => runSteps k t
    | .fault r => .fault r
    | .refused r => .refused r

/-- The instructions of length slots 0 to 27 (30_encoding.md R101). -/
def matchRows : List Instr :=
  [.match0, .match1, .match2, .match3, .match4, .match5, .match6, .match7, .match8, .match9, .match10, .match11, .match12,
   .match13] ++
  [.match14, .match15, .match16, .match17, .match18, .match19, .match20, .match21, .match22, .match23, .match24, .match25,
   .match26, .match27]

/-- The instructions of short slots 0 to 7 (30_encoding.md R101). -/
def shortRows : List Instr := [.short0, .short1, .short2, .short3, .short4, .short5, .short6, .short7]

/-- The instructions of ring entries 0 to 3 (30_encoding.md R101). -/
def repdRows : List Instr := [.repd0, .repd1, .repd2, .repd3]

/-- The destination of a command that writes one operand, with the width it is written in (45_fvm_data.md, 46_fvm_arith.md). -/
def destOf : Instr → Option (Bool × Operand)
  | .mov bm a _ | .add bm a _ | .sub bm a _ | .bxor bm a _ | .band bm a _ | .bor bm a _ | .shl bm a _ | .shr bm a _
  | .sar bm a _ | .mul bm a _ | .div bm a _ | .adc bm a _ | .sbb bm a _ => some (bm, a)
  | .inc bm a | .dec bm a | .bnot bm a | .neg bm a => some (bm, a)
  | .movzx a _ | .movsx a _ => some (false, a)
  | _ => none

/-- The commands that write `FLAGS` (10_state.md R48). -/
def writesFlags : Instr → Bool
  | .cmp .. | .add .. | .sub .. | .inc .. | .dec .. | .bxor .. | .band .. | .bor .. | .test .. | .shl .. | .shr ..
  | .sar .. | .neg .. | .adc .. | .sbb .. | .popf => true
  | _ => false

/-- The jumps, with the operand each takes (47_fvm_control.md R371 to R379). -/
def jumpOperand : Instr → Option Operand
  | .jmp a | .jz a | .jnz a | .js a | .jns a | .jb a | .jbe a | .ja a | .jae a => some a
  | _ => none

/-- The bytes of `Mem` an access of width `bm` at `ea` touches (20_memory.md R72, R73). -/
def touched (bm : Bool) (ea : Word) : List Nat :=
  if bm then [memIndex ea] else [memIndex ea, memIndex (ea + 1), memIndex (ea + 2), memIndex (ea + 3)]

/-- The row of a native transform (47_fvm_control.md R392 to R398). -/
def nativeInstr : StdKind → Instr
  | .e8 => .nativeE8
  | .e8e9 => .nativeE8E9
  | .itanium => .nativeItanium
  | .delta => .nativeDelta
  | .rgb => .nativeRgb
  | .audio => .nativeAudio
  | .upcase => .nativeUpcase

/-! ### The table description of a block header (43_unpack_engine.md R223, 30_encoding.md R94) -/

/-- `MetaRun ml s r t`: with the lengths `ml` read, the description from the state `s` on ends in the state `t`, with the 20
lengths or with an error. A length below 15 stands for itself; 15 and then 0 is the length 15; 15 and then `z` is a run of
`z + 2` zeros. -/
inductive MetaRun : List (BitVec 4) → State → Except ErrKind (List (BitVec 4)) → State → Prop where
  | done {ml s} : ml.length = 20 → MetaRun ml s (.ok ml) s
  | cut {ml s} : ml.length < 20 → s.canRead 4 = false → MetaRun ml s (.error .truncated) s
  | length {ml s r t} : ml.length < 20 → s.canRead 4 = true → s.peekVal 4 < 15 →
      MetaRun (ml ++ [BitVec.ofNat 4 (s.peekVal 4)]) (s.seek (s.pos + 4)) r t → MetaRun ml s r t
  | cutEscape {ml s} : ml.length < 20 → s.canRead 4 = true → s.peekVal 4 = 15 →
      (s.seek (s.pos + 4)).canRead 4 = false → MetaRun ml s (.error .truncated) (s.seek (s.pos + 4))
  | fifteen {ml s r t} : ml.length < 20 → s.canRead 8 = true → s.peekVal 4 = 15 → (s.seek (s.pos + 4)).peekVal 4 = 0 →
      MetaRun (ml ++ [15]) (s.seek (s.pos + 8)) r t → MetaRun ml s r t
  | zeros {ml s r t z} : ml.length < 20 → s.canRead 8 = true → s.peekVal 4 = 15 → (s.seek (s.pos + 4)).peekVal 4 = z →
      1 ≤ z → ml.length + z + 2 ≤ 20 →
      MetaRun (ml ++ List.replicate (z + 2) 0) (s.seek (s.pos + 8)) r t → MetaRun ml s r t
  | tooLong {ml s z} : ml.length < 20 → s.canRead 8 = true → s.peekVal 4 = 15 → (s.seek (s.pos + 4)).peekVal 4 = z →
      1 ≤ z → 20 < ml.length + z + 2 → MetaRun ml s (.error .invalidTable) (s.seek (s.pos + 8))

/-! ### What the default native transforms compute (47_fvm_control.md R392 to R398): over the data as a list, a bundle as one
number, a channel by its index -/

/-- A call operand at `offset` of the output, converted (R392). -/
def e8Word (offset addr : Word) : Word :=
  if addr.toNat < 0x1000000 then addr - offset
  else if addr.toInt < 0 ∧ 0 ≤ (addr + offset).toInt then addr + 0x1000000
  else addr

/-- The data bytes from position `p` on after E8 or E8E9 (R392, R393): an opcode with more than three bytes behind it takes
the next four as its operand; fewer than five bytes stay. -/
def e8Bytes (dual : Bool) (fo : Word) : Nat → List Byte → List Byte
  | p, b :: a0 :: a1 :: a2 :: a3 :: l =>
    if b = 0xE8 ∨ (dual = true ∧ b = 0xE9) then
      b :: ((List.range 4).map (wordByte (e8Word (BitVec.ofNat 32 (p + 1) + fo) (a3 ++ a2 ++ a1 ++ a0))) ++
        e8Bytes dual fo (p + 5) l)
    else b :: e8Bytes dual fo (p + 1) (a0 :: a1 :: a2 :: a3 :: l)
  | _, l => l

/-- The 16 bytes from `p` on as one number, little-endian (R394). -/
def bundleAt (m : Memory) (p : Nat) : BitVec 128 :=
  BitVec.ofNat 128 ((List.range 16).map fun i => (m.read (p + i)).toNat * 256 ^ i).sum

/-- Whether slot `i` of a bundle with template `t` can hold a branch (R394, `MASKS`). -/
def branchSlot (t i : Nat) : Bool :=
  match i with
  | 0 => t ∈ [22, 23]
  | 1 => t ∈ [18, 19, 22, 23]
  | 2 => t ∈ [16, 17, 18, 19, 22, 23, 24, 25, 28, 29]
  | _ => false

/-- Where channel `c` begins in the data: behind the bytes of the channels before it, of `n` bytes dealt to `ch` channels
(R395 to R397). -/
def channelStart (n ch c : Nat) : Nat := ((List.range c).map fun b => (n - b + ch - 1) / ch).sum

/-- The nearest of left, up and upper left to `left + up - upperLeft`, the earlier one where two are as near (R396). -/
def nearest (left up upperLeft : Byte) : Byte :=
  let a := ((up.toNat : Int) - upperLeft.toNat).natAbs
  let b := ((left.toNat : Int) - upperLeft.toNat).natAbs
  let c := ((left.toNat : Int) + up.toNat - 2 * upperLeft.toNat).natAbs
  if a ≤ min b c then left else if b ≤ c then up else upperLeft

/-- A byte behind an escape (R398). -/
def restoreCase (b : Byte) : Byte := if b = 2 then 2 else b - 32

/-- The output bytes of UPCASE, `x` being the byte behind the data (R398). -/
def upcaseBytes (x : Byte) : List Byte → List Byte
  | [] => []
  | [b] => [if b = 2 then restoreCase x else b]
  | b :: c :: l => if b = 2 then restoreCase c :: upcaseBytes x l else b :: upcaseBytes x (c :: l)

end Sys2Proof.Machine
end

