-- ==== Sys2Proof/Certificates/Slice0/Obligations.lean ====
section
/-! DEFINITION. The statements for the provers. Each docstring names the rules it rests on; where a clause is the model's
choice it names the log entry. -/

open Sys2Proof Sys2Proof.Machine

/-! ### FVM memory and operands -/

/-- 20_memory.md R72: the two reads, each byte address reduced by itself. -/
def Obligations.MemReadIsLittleEndianAndWraps : Prop :=
  ∀ (m : Memory) (a : Word),
    memRead8 m a = m.read (a.toNat % 0x40000) ∧
    (memRead32 m a).toNat =
      (m.read (a.toNat % 0x40000)).toNat + (m.read ((a.toNat + 1) % 0x40000)).toNat * 2 ^ 8 +
      (m.read ((a.toNat + 2) % 0x40000)).toNat * 2 ^ 16 + (m.read ((a.toNat + 3) % 0x40000)).toNat * 2 ^ 24

/-- 20_memory.md R73: what a byte write and a word write leave at every address. -/
def Obligations.MemWriteSetsItsBytesOnly : Prop :=
  ∀ (m : Memory) (a v : Word) (x : Nat), m.wf = true →
    (memWrite8 m a (v.setWidth 8)).read x = (if x = a.toNat % 0x40000 then v.extractLsb' 0 8 else m.read x) ∧
    (∀ i < 4, x = (a.toNat + i) % 0x40000 → (memWrite32 m a v).read x = v.extractLsb' (8 * i) 8) ∧
    ((∀ i < 4, x ≠ (a.toNat + i) % 0x40000) → (memWrite32 m a v).read x = m.read x)

/-- 44_fvm_program.md R295, R296, 30_encoding.md R116: the operand rows run as instructions: address and value of each form.
30_encoding.md R112: the number rows: the value of each form. The result port is the model's (entry 3). -/
def Obligations.OperandAndNumberRows : Prop :=
  (∀ (bm : Bool) (r : Fin 8) (d b : Word) (s : State),
    let mem := fun ea : Word => if bm then (memRead8 s.fvm.mem ea).setWidth 32 else memRead32 s.fvm.mem ea
    exec (.operandReg bm r) s =
      .next { s with port := .operand none (if bm then s.fvm.reg r &&& 0xFF else s.fvm.reg r) } ∧
    exec (.operandImm bm d) s = .next { s with port := .operand none (if bm then d &&& 0xFF else d) } ∧
    exec (.operandRegmem0 bm r) s = .next { s with port := .operand (some (s.fvm.reg r)) (mem (s.fvm.reg r)) } ∧
    exec (.operandRegmemB bm r b) s =
      .next { s with port := .operand (some (s.fvm.reg r + b)) (mem (s.fvm.reg r + b)) } ∧
    exec (.operandAbsmem bm b) s = .next { s with port := .operand (some b) (mem b) }) ∧
  (∀ (x : BitVec 4) (h l : BitVec 4) (y : BitVec 8) (z : BitVec 16) (w : Word) (s : State),
    exec (.vnum00 x) s = .next { s with port := .word (BitVec.ofNat 32 x.toNat) } ∧
    (h ≠ 0 → exec (.vnum01 h l) s = .next { s with port := .word (BitVec.ofNat 32 (16 * h.toNat + l.toNat)) }) ∧
    exec (.vnum01h0 y) s = .next { s with port := .word (0xFFFFFF00 + y.setWidth 32) } ∧
    exec (.vnum10 z) s = .next { s with port := .word (BitVec.ofNat 32 z.toNat) } ∧
    exec (.vnum11 w) s = .next { s with port := .word w })

/-- 44_fvm_program.md R297: a register write (upper 24 bits kept in byte mode), a memory write, and no other state. -/
def Obligations.OperandWriteSetsItsTarget : Prop :=
  ∀ (f : Fvm) (bm : Bool) (op : Operand) (ea v : Word),
    (∀ r, op = .reg r → opWrite op bm ea v f =
      .ok () (f.setReg r (if bm then (f.reg r &&& 0xFFFFFF00) ||| (v &&& 0xFF) else v))) ∧
    (isMemForm op = true → opWrite op bm ea v f =
      .ok () (f.setMem (if bm then memWrite8 f.mem ea ((v &&& 0xFF).setWidth 8) else memWrite32 f.mem ea v))) ∧
    (∀ d, op = .imm d → opWrite op bm ea v f = .error .corruptStream f)

/-! ### FVM commands: results -/

/-- 45_fvm_data.md R320 to R322: MOV, MOVZX, MOVSX. R323: XCHG writes `op1` first, then `op2`, at addresses fixed before. -/
def Obligations.MoveAndExchangeResults : Prop :=
  (∀ (bm : Bool) (op1 op2 : Operand) (s : State), isImmForm op1 = false →
    let a1 := s.fvm.ea op1
    let a2 := s.fvm.ea op2
    exec (.mov bm op1 op2) s = .next { s with fvm := (s.fvm.store op1 bm a1 (s.fvm.opVal op2 bm a2)).advance } ∧
    exec (.movzx op1 op2) s = .next { s with fvm := (s.fvm.store op1 false a1 (s.fvm.opVal op2 true a2)).advance } ∧
    exec (.movsx op1 op2) s =
      .next { s with fvm := (s.fvm.store op1 false a1 (((s.fvm.opVal op2 true a2).setWidth 8).signExtend 32)).advance }) ∧
  (∀ (bm : Bool) (op1 op2 : Operand) (s : State), isImmForm op1 = false → isImmForm op2 = false →
    let a1 := s.fvm.ea op1
    let a2 := s.fvm.ea op2
    exec (.xchg bm op1 op2) s = .next { s with fvm :=
      (((s.fvm.store op1 bm a1 (s.fvm.opVal op2 bm a2)).store op2 bm a2 (s.fvm.opVal op1 bm a1)).advance) })

/-- 45_fvm_data.md R324, R325, R328, R329: PUSH, POP, PUSHF, POPF. PUSH reads its operand after `R[7]` has changed, at the
address fixed before; POP adds 4 to the `R[7]` that the write left. R326, R327: PUSHA stores the eight old registers and
lowers `R[7]` by 32; POPA loads them back in the reverse order. -/
def Obligations.StackResults : Prop :=
  (∀ (op1 : Operand) (s : State),
    let f := s.fvm
    let sp := f.reg 7 - 4
    let g := f.setReg 7 sp
    let p := f.store op1 false (f.ea op1) (memRead32 f.mem (f.reg 7))
    exec (.push op1) s =
      .next { s with fvm := (g.setMem (memWrite32 f.mem sp (g.opVal op1 false (f.ea op1)))).advance } ∧
    (isImmForm op1 = false → exec (.pop op1) s = .next { s with fvm := (p.setReg 7 (p.reg 7 + 4)).advance }) ∧
    exec .pushf s = .next { s with fvm := (g.setMem (memWrite32 f.mem sp f.flags)).advance } ∧
    exec .popf s =
      .next { s with fvm := ((f.setFlags (memRead32 f.mem (f.reg 7))).setReg 7 (f.reg 7 + 4)).advance }) ∧
  (∀ (s : State),
    let f := s.fvm
    let sp := f.reg 7
    let st := fun (i : Fin 8) (m : Memory) => memWrite32 m (sp - 4 - 4 * BitVec.ofNat 32 i.val) (f.reg i)
    exec .pusha s = .next { s with fvm :=
      ((f.setMem (st 7 (st 6 (st 5 (st 4 (st 3 (st 2 (st 1 (st 0 f.mem))))))))).setReg 7 (sp - 32)).advance } ∧
    ∃ g : Fvm, exec .popa s = .next { s with fvm := g } ∧
      (∀ i : Fin 8, g.reg (7 - i) = memRead32 f.mem (sp + 4 * BitVec.ofNat 32 i.val)) ∧
      g.mem = f.mem ∧ g.flags = f.flags ∧ g.ip = f.ip + 1 ∧ g.ops = f.ops ∧ g.ended = f.ended)

/-- 45_fvm_data.md R326, R327: a POPA directly after a PUSHA gives every register back. -/
def Obligations.PopaAfterPushaRestoresRegisters : Prop :=
  ∀ (s t u : State), s.fvm.mem.wf = true → exec .pusha s = .next t → exec .popa t = .next u →
    u.fvm.regs = s.fvm.regs

/-- 46_fvm_arith.md R340, R353: CMP and TEST set `FLAGS` and write no operand, an immediate first operand
included. R350 to R352: XOR, AND, OR. -/
def Obligations.CompareAndLogicResults : Prop :=
  (∀ (bm : Bool) (op1 op2 : Operand) (s : State),
    let v1 := s.fvm.opVal op1 bm (s.fvm.ea op1)
    let v2 := s.fvm.opVal op2 bm (s.fvm.ea op2)
    let d := v1 - v2
    let a := v1 &&& v2
    exec (.cmp bm op1 op2) s = .next { s with fvm :=
      (s.fvm.setFlags (if d = 0 then 2 else (if v1 < d then 1 else 0) ||| (d &&& 0x80000000))).advance } ∧
    exec (.test bm op1 op2) s = .next { s with fvm :=
      (s.fvm.setFlags (if a = 0 then 2 else a &&& 0x80000000)).advance }) ∧
  (∀ (bm : Bool) (op1 op2 : Operand) (s : State), isImmForm op1 = false →
    let a1 := s.fvm.ea op1
    let v1 := s.fvm.opVal op1 bm a1
    let v2 := s.fvm.opVal op2 bm (s.fvm.ea op2)
    let done := fun r : Word => ((s.fvm.setFlags (if r = 0 then 2 else r &&& 0x80000000)).store op1 bm a1 r).advance
    exec (.bxor bm op1 op2) s = .next { s with fvm := done (v1 ^^^ v2) } ∧
    exec (.band bm op1 op2) s = .next { s with fvm := done (v1 &&& v2) } ∧
    exec (.bor bm op1 op2) s = .next { s with fvm := done (v1 ||| v2) })

/-- 46_fvm_arith.md R341, R342: ADD (masked, `S` from bit 7 in byte mode) and SUB (not masked). R348, R349: ADC and SBB
read the carry and are masked. R343 to R345: INC (masked), DEC and NEG (not masked). -/
def Obligations.AddSubIncDecNegResults : Prop :=
  (∀ (bm : Bool) (op1 op2 : Operand) (s : State), isImmForm op1 = false →
    let a1 := s.fvm.ea op1
    let v1 := s.fvm.opVal op1 bm a1
    let v2 := s.fvm.opVal op2 bm (s.fvm.ea op2)
    let r := if bm then (v1 + v2) &&& 0xFF else v1 + v2
    let d := v1 - v2
    exec (.add bm op1 op2) s = .next { s with fvm := ((s.fvm.setFlags
      ((if r < v1 then 1 else 0) ||| (if r = 0 then 2 else if bm then (if r &&& 0x80 = 0 then 0 else 0x80000000)
        else r &&& 0x80000000))).store op1 bm a1 r).advance } ∧
    exec (.sub bm op1 op2) s = .next { s with fvm := ((s.fvm.setFlags
      (if d = 0 then 2 else (if v1 < d then 1 else 0) ||| (d &&& 0x80000000))).store op1 bm a1 d).advance }) ∧
  (∀ (bm : Bool) (op1 op2 : Operand) (s : State), isImmForm op1 = false →
    let a1 := s.fvm.ea op1
    let v1 := s.fvm.opVal op1 bm a1
    let v2 := s.fvm.opVal op2 bm (s.fvm.ea op2)
    let fc := s.fvm.flags &&& 1
    let x := if bm then (v1 + v2 + fc) &&& 0xFF else v1 + v2 + fc
    let y := if bm then (v1 - v2 - fc) &&& 0xFF else v1 - v2 - fc
    exec (.adc bm op1 op2) s = .next { s with fvm := ((s.fvm.setFlags
      ((if x < v1 ∨ (x = v1 ∧ fc = 1) then 1 else 0) ||| (if x = 0 then 2 else x &&& 0x80000000))).store op1 bm a1
        x).advance } ∧
    exec (.sbb bm op1 op2) s = .next { s with fvm := ((s.fvm.setFlags
      ((if v1 < y ∨ (y = v1 ∧ fc = 1) then 1 else 0) ||| (if y = 0 then 2 else y &&& 0x80000000))).store op1 bm a1
        y).advance }) ∧
  (∀ (bm : Bool) (op1 : Operand) (s : State), isImmForm op1 = false →
    let a1 := s.fvm.ea op1
    let v1 := s.fvm.opVal op1 bm a1
    let zs := fun r : Word => if r = 0 then 2 else r &&& 0x80000000
    let i := if bm then (v1 + 1) &&& 0xFF else v1 + 1
    let n := 0 - v1
    exec (.inc bm op1) s = .next { s with fvm := ((s.fvm.store op1 bm a1 i).setFlags (zs i)).advance } ∧
    exec (.dec bm op1) s = .next { s with fvm := ((s.fvm.store op1 bm a1 (v1 - 1)).setFlags (zs (v1 - 1))).advance } ∧
    exec (.neg bm op1) s = .next { s with fvm :=
      ((s.fvm.setFlags (if n = 0 then 2 else 1 ||| (n &&& 0x80000000))).store op1 bm a1 n).advance })

/-- 46_fvm_arith.md R346, R347, R354: MUL, DIV and NOT; a zero divisor has no effect but the advance, whatever the
destination. R355 to R357: SHL, SHR, SAR; amounts modulo 32, the carry from the amount less one. -/
def Obligations.MulDivNotShiftResults : Prop :=
  (∀ (bm : Bool) (op1 op2 : Operand) (s : State),
    let a1 := s.fvm.ea op1
    let v1 := s.fvm.opVal op1 bm a1
    let v2 := s.fvm.opVal op2 bm (s.fvm.ea op2)
    (v2 = 0 → exec (.div bm op1 op2) s = .next { s with fvm := s.fvm.advance }) ∧
    (isImmForm op1 = false →
      exec (.mul bm op1 op2) s = .next { s with fvm := (s.fvm.store op1 bm a1 (v1 * v2)).advance } ∧
      (v2 ≠ 0 → exec (.div bm op1 op2) s =
        .next { s with fvm := (s.fvm.store op1 bm a1 (BitVec.ofNat 32 (v1.toNat / v2.toNat))).advance }) ∧
      exec (.bnot bm op1) s = .next { s with fvm := (s.fvm.store op1 bm a1 (~~~v1)).advance })) ∧
  (∀ (bm : Bool) (op1 op2 : Operand) (s : State), isImmForm op1 = false →
    let a1 := s.fvm.ea op1
    let v1 := s.fvm.opVal op1 bm a1
    let v2 := s.fvm.opVal op2 bm (s.fvm.ea op2)
    let n := v2.toNat % 32
    let k := (v2 - 1).toNat % 32
    let done := fun r c : Word =>
      ((s.fvm.setFlags ((if r = 0 then 2 else r &&& 0x80000000) ||| c)).store op1 bm a1 r).advance
    exec (.shl bm op1 op2) s = .next { s with fvm := done (v1 <<< n) ((v1 <<< k) >>> 31) } ∧
    exec (.shr bm op1 op2) s = .next { s with fvm := done (v1 >>> n) ((v1 >>> k) &&& 1) } ∧
    exec (.sar bm op1 op2) s = .next { s with fvm := done (v1.sshiftRight n) ((v1 >>> k) &&& 1) })

/-- 10_state.md R47, R48: every flag-writing command but POPF leaves bits 2 to 30 of `FLAGS` clear; every command that is no
flag writer leaves `FLAGS` as it was. -/
def Obligations.FlagsWordDiscipline : Prop :=
  ∀ (i : Instr) (s t : State), i.isCommand = true → exec i s = .next t →
    (writesFlags i = true → i ≠ .popf → t.fvm.flags ≠ s.fvm.flags → t.fvm.flags &&& 0x7FFFFFFC = 0) ∧
    (writesFlags i = false → t.fvm.flags = s.fvm.flags)

/-- 47_fvm_control.md R370 to R379: the jumps. R380 to R382: CALL pushes `ip + 1` and then reads its target; RET pops `ip`,
or ends the execution with `R[7]` at or above 0x40000 (that `ip` then stays is entry 12); PRINT only advances. -/
def Obligations.ControlTransferResults : Prop :=
  (∀ (op1 : Operand) (s : State),
    let fl := s.fvm.flags
    let go := fun c : Prop => fun [Decidable c] =>
      Host.Outcome.next (φ := Fault) (ρ := Refusal)
        { s with fvm := if c then s.fvm.setIp (s.fvm.opVal op1 false (s.fvm.ea op1)) else s.fvm.advance }
    exec (.jmp op1) s = go True ∧
    exec (.jz op1) s = go (fl &&& 2 ≠ 0) ∧ exec (.jnz op1) s = go (fl &&& 2 = 0) ∧
    exec (.js op1) s = go (fl &&& 0x80000000 ≠ 0) ∧ exec (.jns op1) s = go (fl &&& 0x80000000 = 0) ∧
    exec (.jb op1) s = go (fl &&& 1 ≠ 0) ∧ exec (.jae op1) s = go (fl &&& 1 = 0) ∧
    exec (.jbe op1) s = go (fl &&& 3 ≠ 0) ∧ exec (.ja op1) s = go (fl &&& 3 = 0)) ∧
  (∀ (op1 : Operand) (s : State),
    let f := s.fvm
    let sp := f.reg 7 - 4
    let g := (f.setReg 7 sp).setMem (memWrite32 f.mem sp (f.ip + 1))
    exec (.call op1) s = .next { s with fvm := g.setIp (g.opVal op1 false (f.ea op1)) } ∧
    (0x40000 ≤ (f.reg 7).toNat → exec .ret s = .next { s with fvm := { f with ended := true } }) ∧
    ((f.reg 7).toNat < 0x40000 →
      exec .ret s = .next { s with fvm := (f.setIp (memRead32 f.mem (f.reg 7))).setReg 7 (f.reg 7 + 4) }) ∧
    exec .print s = .next { s with fvm := f.advance })

/-- 44_fvm_program.md R298: a write to an immediate raises CorruptStream at the moment of the write: of the commands with one
destination, of POP and of XCHG (whose first write, where its destination can be written, has happened). The commands that
only read their first operand take an immediate there, and a DIV that does not divide raises nothing. -/
def Obligations.ImmediateDestinationRaises : Prop :=
  ∀ (s : State) (d : Word),
    let raises := fun (i : Instr) (keeps : Fvm → Prop) =>
      ∃ t, exec i s = .next t ∧ t.ue = .failed ∧ t.host.status = .error ∧ t.host.errKind = 3 ∧ keeps t.fvm
    (∀ i bm, destOf i = some (bm, .imm d) → (∀ b op2, i = .div b (.imm d) op2 → s.fvm.opVal op2 b (s.fvm.ea op2) ≠ 0) →
      raises i fun f => f.regs = s.fvm.regs ∧ f.mem = s.fvm.mem) ∧
    raises (.pop (.imm d)) (fun f => f = s.fvm) ∧
    (∀ bm op2, raises (.xchg bm (.imm d) op2) fun f => f = s.fvm) ∧
    (∀ bm op1, isImmForm op1 = false → raises (.xchg bm op1 (.imm d)) fun f =>
      f = s.fvm.store op1 bm (s.fvm.ea op1) (s.fvm.opVal (.imm d) bm 0)) ∧
    (∀ bm op2, ∀ i ∈ [Instr.cmp bm (.imm d) op2, .test bm (.imm d) op2, .push (.imm d), .jmp (.imm d), .jz (.imm d),
        .jnz (.imm d), .js (.imm d), .jns (.imm d), .jb (.imm d), .jbe (.imm d), .ja (.imm d), .jae (.imm d), .call (.imm d)],
      ∃ f, exec i s = .next { s with fvm := f }) ∧
    ∀ bm op2, s.fvm.opVal op2 bm (s.fvm.ea op2) = 0 →
      exec (.div bm (.imm d) op2) s = .next { s with fvm := s.fvm.advance }

/-! ### FVM commands: frames and isolation -/

/-- 20_memory.md R61, 60_exceptions.md R422: every command answers a next state, and outside the FVM that state differs at
most by the raise of CorruptStream. -/
def Obligations.CommandsReachTheFvmOnly : Prop :=
  ∀ (i : Instr) (s : State), i.isCommand = true → ∃ t, exec i s = .next t ∧
    (s.SameButFvm t ∨ ∃ u, s.SameButFvm u ∧ t = u.raise .corruptStream)

/-- 20_memory.md R61: what a command does to the FVM depends on the FVM alone (and on the parameter `NATIVE`). -/
def Obligations.CommandsReadTheFvmOnly : Prop :=
  ∀ (i : Instr) (s s' t t' : State), i.isCommand = true → s.fvm = s'.fvm → s.cfg.native = s'.cfg.native →
    exec i s = .next t → exec i s' = .next t' → t.fvm = t'.fvm

/-- Frame of the commands with one destination (R320 to R322, R341 to R357 but CMP and TEST): every other register, the upper
24 bits of a byte-mode register destination, every byte of `Mem` outside the stored ones, `ops` and the end mark are as
before; `ip` advances. -/
def Obligations.SingleDestinationFrame : Prop :=
  ∀ (i : Instr) (bm : Bool) (op1 : Operand) (s t : State), destOf i = some (bm, op1) → isImmForm op1 = false →
    s.fvm.mem.wf = true → exec i s = .next t →
    (∀ r, op1 ≠ .reg r → t.fvm.reg r = s.fvm.reg r) ∧
    (∀ r, op1 = .reg r → bm = true → t.fvm.reg r &&& 0xFFFFFF00 = s.fvm.reg r &&& 0xFFFFFF00) ∧
    (∀ x, (isMemForm op1 = true → x ∉ touched bm (s.fvm.ea op1)) → t.fvm.mem.read x = s.fvm.mem.read x) ∧
    t.fvm.ip = s.fvm.ip + 1 ∧ t.fvm.ops = s.fvm.ops ∧ t.fvm.ended = s.fvm.ended ∧
    (writesFlags i = false → t.fvm.flags = s.fvm.flags) ∧ s.SameButFvm t

/-- Frame of PUSH, PUSHF and CALL: only `R[7]` and the four bytes at the new `R[7]` change; PUSHF and PUSH leave `ip` one on
(45_fvm_data.md R324, R328, 47_fvm_control.md R380). -/
def Obligations.PushFrame : Prop :=
  ∀ (i : Instr) (op1 : Operand) (s t : State), (i = .push op1 ∨ i = .pushf ∨ i = .call op1) → s.fvm.mem.wf = true →
    exec i s = .next t →
    (∀ r, r ≠ 7 → t.fvm.reg r = s.fvm.reg r) ∧ t.fvm.reg 7 = s.fvm.reg 7 - 4 ∧
    (∀ x, x ∉ touched false (s.fvm.reg 7 - 4) → t.fvm.mem.read x = s.fvm.mem.read x) ∧
    t.fvm.flags = s.fvm.flags ∧ t.fvm.ops = s.fvm.ops ∧ t.fvm.ended = s.fvm.ended ∧
    (i ≠ .call op1 → t.fvm.ip = s.fvm.ip + 1) ∧ s.SameButFvm t

/-! ### STANDARD and the native transforms -/

/-- 47_fvm_control.md R390, R391: STANDARD applies `NATIVE` of its kind and advances; `NATIVE` gives `Mem` and the registers,
and the default transforms write `Mem` alone (that a NATIVE row run by itself leaves `ip` is entry 25). -/
def Obligations.NativeTransformsWriteMemOnly : Prop :=
  ∀ (k : StdKind) (s : State),
    let g := nativeApply s.cfg.native k s.fvm
    exec (.standard k) s = .next { s with fvm := g.advance } ∧
    exec (nativeInstr k) s = .next { s with fvm := g } ∧
    g = { s.fvm with mem := g.mem, regs := g.regs } ∧
    (s.cfg.native = .default → g = { s.fvm with mem := g.mem })

/-- 47_fvm_control.md R392, R393: E8 and E8E9 at the default of `NATIVE` (entry 7): the data after the scan, and no other byte.
R394: ITANIUM: in each bundle the target field of a branch slot lowered by the bundle's position, and no other bit. -/
def Obligations.InPlaceTransformResults : Prop :=
  (∀ (dual : Bool) (f : Fvm), f.mem.wf = true →
    let n := (f.reg 4).toNat
    let g := nativeApply .default (if dual then .e8e9 else .e8) f
    ((0x3C000 ≤ n ∨ n < 4) → g = f) ∧
    (4 ≤ n → n < 0x3C000 → ∀ x, g.mem.read x =
      if x < n then (e8Bytes dual (f.reg 6) 0 (f.mem.readRange 0 n)).getD x 0 else f.mem.read x)) ∧
  (∀ (f : Fvm), f.mem.wf = true →
    let n := (f.reg 4).toNat
    let g := nativeApply .default .itanium f
    ((0x3C000 ≤ n ∨ n < 21) → g = f) ∧
    (21 ≤ n → n < 0x3C000 →
      (∀ k, 16 * k + 21 < n →
        let b := bundleAt f.mem (16 * k)
        let c := bundleAt g.mem (16 * k)
        let fo := (f.reg 6 >>> 4) + BitVec.ofNat 32 k
        (∀ i < 3, c.extractLsb' (41 * i + 18) 20 =
          if branchSlot (b.extractLsb' 0 5).toNat i = true ∧ b.extractLsb' (41 * i + 42) 4 = 5 then
            b.extractLsb' (41 * i + 18) 20 - fo.setWidth 20
          else b.extractLsb' (41 * i + 18) 20) ∧
        (∀ j < 128, (∀ i < 3, j < 41 * i + 18 ∨ 41 * i + 38 ≤ j) → c.getLsbD j = b.getLsbD j)) ∧
      ∀ x, n ≤ 16 * (x / 16) + 21 → g.mem.read x = f.mem.read x))

/-- 47_fvm_control.md R395: DELTA at the default of `NATIVE` (entry 7): byte `j` of channel `c` is minus the sum of the
channel's first `j + 1` data bytes, at `n + c + j * ch`; the position word is `n`. R398: UPCASE: the restored bytes at `n`, the
size and the position word. No other byte changes. -/
def Obligations.DeltaAndUpcaseTransformResults : Prop :=
  (∀ (f : Fvm), f.mem.wf = true →
    let n := (f.reg 4).toNat
    let ch := (f.reg 0).toNat
    let g := nativeApply .default .delta f
    (0x1E000 ≤ n → g = f) ∧
    (n < 0x1E000 →
      memRead32 g.mem 0x3C020 = f.reg 4 ∧
      (∀ c j, c < ch → c + j * ch < n → g.mem.read (n + c + j * ch) =
        0 - ((List.range (j + 1)).map fun t => f.mem.read (channelStart n ch c + t)).sum) ∧
      ∀ x, (x < n ∨ 2 * n ≤ x ∨ ch = 0) → x ∉ touched false 0x3C020 → g.mem.read x = f.mem.read x)) ∧
  (∀ (f : Fvm), f.mem.wf = true →
    let n := (f.reg 4).toNat
    let g := nativeApply .default .upcase f
    let data := f.mem.readRange 0 n
    let first := upcaseBytes 0 data
    let out := upcaseBytes (if 1 < first.length then first.getD 0 0 else f.mem.read n) data
    (0x1E000 ≤ n → g = f) ∧
    (n < 0x1E000 →
      memRead32 g.mem 0x3C01C = BitVec.ofNat 32 out.length ∧ memRead32 g.mem 0x3C020 = f.reg 4 ∧
      (∀ i < out.length, g.mem.read (n + i) = out.getD i 0) ∧
      ∀ x, (x < n ∨ n + out.length ≤ x) → x ∉ touched false 0x3C01C → x ∉ touched false 0x3C020 →
        g.mem.read x = f.mem.read x))

/-- 47_fvm_control.md R396: RGB at the default of `NATIVE` (entry 7): `d` are the bytes of the three channels before green is
added; a byte of the row above that its channel order has not reached is as before. R397: AUDIO: `st c j` is channel `c`'s
predictor before its byte `j`. The position word is `n`; no byte outside the result changes. -/
def Obligations.RgbAndAudioTransformResults : Prop :=
  (∀ (f : Fvm), f.mem.wf = true →
    let n := (f.reg 4).toNat
    let width := (f.reg 0 - 3).toNat
    let posr := (f.reg 1).toNat
    let g := nativeApply .default .rgb f
    ((0x1E000 ≤ n ∨ n < 3 ∨ n < width ∨ 2 < posr) → g = f) ∧
    (n < 0x1E000 → 3 ≤ n → width ≤ n → posr ≤ 2 →
      memRead32 g.mem 0x3C020 = f.reg 4 ∧
      (∀ x, (x < n ∨ 2 * n ≤ x) → x ∉ touched false 0x3C020 → g.mem.read x = f.mem.read x) ∧
      ∃ d : Nat → Byte,
        (∀ i < n,
          let dst := fun j => if j % 3 < i % 3 ∨ (j % 3 = i % 3 ∧ j < i) then d j else f.mem.read (n + j)
          let prev := if i < 3 then 0 else d (i - 3)
          d i = (if i < width + 3 then prev else nearest prev (dst (i - width)) (dst (i - width - 3))) -
            f.mem.read (channelStart n 3 (i % 3) + i / 3)) ∧
        ∀ i < n, g.mem.read (n + i) = d i +
          (if posr ≤ i ∧ (i - posr) % 3 = 0 ∧ i + 2 < n then d (i + 1)
          else if posr ≤ i ∧ (i - posr) % 3 = 2 then d (i - 1) else 0))) ∧
  (∀ (f : Fvm), f.mem.wf = true →
    let n := (f.reg 4).toNat
    let ch := (f.reg 0).toNat
    let g := nativeApply .default .audio f
    ((0x1E000 ≤ n ∨ ch = 0 ∨ 128 < ch) → g = f) ∧
    (n < 0x1E000 → 1 ≤ ch → ch ≤ 128 →
      memRead32 g.mem 0x3C020 = f.reg 4 ∧
      (∀ x, (x < n ∨ 2 * n ≤ x) → x ∉ touched false 0x3C020 → g.mem.read x = f.mem.read x) ∧
      ∃ st : Nat → Nat → AudioPredictor, ∀ c < ch,
        (let a := st c 0;
          a.prev = 0 ∧ [a.pdelta, a.d1, a.d2, a.d3, a.k1, a.k2, a.k3] = List.replicate 7 0 ∧ a.dif = List.replicate 7 0) ∧
        ∀ j, c + j * ch < n →
          let a := st c j
          let b := st c (j + 1)
          let cur := f.mem.read (channelStart n ch c + j)
          let out := g.mem.read (n + c + j * ch)
          let big := 8 * cur.toInt
          let sums := List.zipWith (fun (x : Nat) (y : Int) => x + y.natAbs) a.dif
            [big, big - b.d1, big + b.d1, big - b.d2, big + b.d2, big - b.d3, big + b.d3]
          out = BitVec.ofInt 8 ((8 * a.prev + a.k1 * b.d1 + a.k2 * b.d2 + a.k3 * b.d3) / 8) - cur ∧
          b.d1 = a.pdelta ∧ b.d2 = a.pdelta - a.d1 ∧ b.d3 = a.d2 ∧
          b.prev = out.toNat ∧ b.pdelta = (out - BitVec.ofNat 8 a.prev).toInt ∧
          (j % 32 ≠ 0 → b.dif = sums ∧ b.k1 = a.k1 ∧ b.k2 = a.k2 ∧ b.k3 = a.k3) ∧
          (j % 32 = 0 → b.dif = List.replicate 7 0 ∧
            ∀ m < 7, (∀ i < 7, sums.getD m 0 ≤ sums.getD i 0) → (∀ i < m, sums.getD m 0 < sums.getD i 0) →
              let weight := fun (down up : Nat) (k : Int) =>
                if m = down ∧ -16 ≤ k then k - 1 else if m = up ∧ k < 16 then k + 1 else k
              b.k1 = weight 1 2 a.k1 ∧ b.k2 = weight 3 4 a.k2 ∧ b.k3 = weight 5 6 a.k3)))

/-! ### Numbers, commands and symbols: encodings -/

/-- 30_encoding.md R118: the index a jump's displacement stands for, by the signed value of the displacement. -/
def Obligations.JumpDisplacementTable : Prop :=
  ∀ (idx : Nat) (d : Word), idx < 2 ^ 17 →
    let t := (jumpTarget idx d).toNat
    let i := BitVec.ofNat 32 idx
    (256 ≤ d.toInt → (t : Int) = d.toInt - 256) ∧
    (136 ≤ d.toInt → d.toInt ≤ 255 → jumpTarget idx d = i - BitVec.ofInt 32 (264 - d.toInt)) ∧
    (16 ≤ d.toInt → d.toInt ≤ 135 → (t : Int) = idx + d.toInt - 8) ∧
    (8 ≤ d.toInt → d.toInt ≤ 15 → jumpTarget idx d = i - BitVec.ofInt 32 (16 - d.toInt)) ∧
    (0 ≤ d.toInt → d.toInt ≤ 7 → (t : Int) = idx + d.toInt) ∧
    (d.toInt < 0 → jumpTarget idx d = i + d)

/-- 30_encoding.md R113 to R117: every command of a blob, with every operand at every value its encoding admits, decodes back
from its bits, whatever follows. -/
def Obligations.CommandDecodeEncode : Prop :=
  ∀ (i : Instr) (bits rest : List Bool), i.wf = true → i.isEncodable = true → encode i = some bits →
    decodeCommand (bits ++ rest) = (i, rest)

/-- 30_encoding.md R112, R116: every operand row and every number row decodes back from its bits, whatever follows. -/
def Obligations.OperandAndNumberDecodeEncode : Prop :=
  (∀ (bm : Bool) (op : Operand) (rest : List Bool), op.wf bm = true →
    decodeOperand bm (encodeOperand bm op ++ rest) = (op, rest) ∧
      encode (op.toInstr bm) = some (encodeOperand bm op)) ∧
  (∀ (f : VnumForm) (rest : List Bool), f.wf = true →
    decodeVnumForm pbRead (f.encode ++ rest) = (f, rest) ∧ encode f.toInstr = some f.encode) ∧
  (∀ (v : Word) (rest : List Bool), decodeVnum pbRead (encodeVnum v ++ rest) = (v, rest)) ∧
  (∀ (v : Word) (rest : List Bool), decodeVnum rbRead (encodeVnum v ++ rest) = some (v, rest))

/-- 30_encoding.md R113 to R118 on a few words written out in 95_test_vectors.md section 2.7; that the table word 0x2E is RET
rests on entry 8, how the table's bits are read. R96 to R98, R101: each symbol number stands for one instruction and back; that a
larger number is refused is entry 23. -/
def Obligations.SampleWordsAndSymbolMaps : Prop :=
  (let b := fun (l : List Nat) => l.map (· == 1)
  (decodeCommand (b [1,0,1,1,1,0])).1 = .ret ∧
  (decodeCommand (b [0,1,1,0,1,0,1,0,0,0,0])).1 = .inc true (.regmem0 0) ∧
  (decodeCommand (b [0,0,0,0,1,1,0,0,1,0,0,1,1,1,1,1,1,1,1])).1 = .mov true (.reg 1) (.imm 0xFF) ∧
  (decodeCommand (b [0,0,0,1,0,1,0,0,0,1,1,0,0])).1 = .cmp false (.reg 0) (.reg 4) ∧
  (decodeCommand (b [1,1,0,0,1,0,0,1,0,0,0,0,0,0,0,0,1,0,0])).1 = .sar false (.reg 0) (.imm 4) ∧
  decodeTableWord 8 0x2E = some .ret) ∧
  ((∀ s, s < 299 → ∃ i, ldInstr s = .ok i ∧ ldSymbol i = some s) ∧
  (∀ s, 299 ≤ s → ∃ e, ldInstr s = .error e) ∧
  (∀ s, s < 20 → ∃ i, mdInstr s = .ok i ∧ mdSymbol i = some s) ∧
  (∀ s, 20 ≤ s → ∃ e, mdInstr s = .error e))

/-- 44_fvm_program.md R280, R281, R286: a blob with the wrong checksum is refused; every other compiles to commands ending in
RET. R283: one whose length and CRC the signatures give one kind compiles to STANDARD of that kind and RET. R282, R284, R285:
one that no signature names compiles to its static data and its commands, read one after another from the bits behind the
checksum byte while bits are left, the command at index `k` with its jump rewritten for `k`. 30_encoding.md R118: which
commands are rewritten. -/
def Obligations.CompileResult : Prop :=
  (∀ (sigs : List Signature) (code : List Byte),
    let named := fun g : Signature => g.codeLen = code.length ∧ g.crc = crc32 code
    let bits := (code.drop 1).flatMap fun b => (List.range 8).map b.getLsbD
    let size : Word × List Bool := decodeVnum pbRead (bits.drop 1)
    let n := min (size.1.toNat + 1) ((size.2.length + 7) / 8)
    (code.headD 0 ≠ (code.drop 1).foldl (· ^^^ ·) 0 → compileBlob sigs code = none) ∧
    (code.headD 0 = (code.drop 1).foldl (· ^^^ ·) 0 →
      (∃ p, compileBlob sigs code = some p ∧ p.cmds.getLast? = some .ret ∧ p.cmds.all Instr.isCommand = true) ∧
      (∀ g ∈ sigs, named g → (∀ g' ∈ sigs, named g' → g'.kind = g.kind) →
        compileBlob sigs code = some ⟨[.standard g.kind, .ret], []⟩) ∧
      ((∀ g ∈ sigs, ¬ named g) → ∃ (cmds : List Instr) (data : List Byte) (rest : Nat → List Bool),
        compileBlob sigs code = some ⟨cmds ++ [.ret], data⟩ ∧
        (bits.headD false = false → data = [] ∧ rest 0 = bits.drop 1) ∧
        (bits.headD false = true → data.length = n ∧ rest 0 = size.2.drop (8 * n) ∧ ∀ k < n, data.getD k 0 =
          BitVec.ofNat 8 ((List.range 8).map fun j => if size.2.getD (8 * k + j) false then 2 ^ (7 - j) else 0).sum) ∧
        (∀ k < cmds.length, rest k ≠ [] ∧ rest (k + 1) = (decodeCommand (rest k)).2 ∧
          cmds[k]? = some (rewriteJump k (decodeCommand (rest k)).1)) ∧
        rest cmds.length = []))) ∧
  (∀ (idx : Nat) (d : Word),
    let t := Operand.imm (jumpTarget idx d)
    [Instr.jmp, .jz, .jnz, .js, .jns, .jb, .jbe, .ja, .jae, .call].map (fun j => rewriteJump idx (j (.imm d))) =
      [.jmp t, .jz t, .jnz t, .js t, .jns t, .jb t, .jbe t, .ja t, .jae t, .call t]) ∧
  (∀ (idx : Nat) (i : Instr), (∀ d, jumpOperand i ≠ some (.imm d) ∧ i ≠ .call (.imm d)) → rewriteJump idx i = i)

/-! ### Cursor, tables, window -/

/-- 40_bitcursor.md R142, R143, R146, R147: the four cursor rows (result port: entry 3). A read takes its bits, first bit most
significant; a read past the end raises Truncated and moves nothing (R144). -/
def Obligations.BitCursorRows : Prop :=
  ∀ (n : Fin 33) (k : Word) (s : State),
    let value := BitVec.ofNat 32 (((List.range n.val).map fun i =>
      (if s.pos + i < s.endPos ∧ (s.host.payload.read ((s.pos + i) / 8)).getLsbD ((s.pos + i) % 8) = true then 1 else 0) *
        2 ^ (n.val - 1 - i)).sum)
    let b := s.bc.byte.toNat + (if s.bc.bit = 0 then 0 else 1)
    exec (.bcPeek n) s = .next { s with port := .word value } ∧
    (s.pos + n.val ≤ s.endPos → exec (.bcRead n) s = .next { s with
      bc := ⟨BitVec.ofNat 32 ((s.pos + n.val) / 8), BitVec.ofNat 3 ((s.pos + n.val) % 8)⟩, port := .word value }) ∧
    (s.endPos < s.pos + n.val → exec (.bcRead n) s = .next (s.raise .truncated)) ∧
    exec .bcAlign s = .next { s with bc := if s.bc.bit = 0 then s.bc else ⟨s.bc.byte + 1, 0⟩ } ∧
    (b + k.toNat ≤ s.host.plen.toNat → exec (.bcReadBytes k) s = .next { s with
      bc := ⟨BitVec.ofNat 32 (b + k.toNat), 0⟩
      port := .bytes ((List.range k.toNat).map fun i => s.host.payload.read (b + i)) }) ∧
    (s.host.plen.toNat < b + k.toNat → exec (.bcReadBytes k) s = .next (s.raise .truncated))

/-- 40_bitcursor.md R144, 43_unpack_engine.md R234, R243, 41_huffman.md R178: the reads the symbols are made of move the cursor
forwards, not past the end, and change nothing else. -/
def Obligations.FieldReadsMoveTheCursorOnly : Prop :=
  ∀ (n : Nat) (t : TableId) (fb : Byte) (ml : List (BitVec 4)) (s u : State),
    ((∃ x, readExtra n s = .ok x u) ∨ (∃ x, decodeSym t s = .ok x u) ∨ (∃ bs, bcReadFields n s = .ok bs u) ∨
      (∃ k, readRecordLen fb s = .ok k u) ∨ (∃ ls, readMetaLengths n ml s = .ok ls u)) →
    u = { s with bc := u.bc } ∧ s.pos ≤ u.pos ∧ (s.pos ≤ s.endPos → u.pos ≤ s.endPos)

/-- 41_huffman.md R166: `Build` fails exactly when some length has more codes than it can hold or the array has the wrong
size (checks (b) and (c) cannot fire). R168 to R171: the contents of a built table: 16 boundaries from 0, none falling, none
above 0x10000; positions that sum the counts; symbols by length, then by index; `n_used` of them. -/
def Obligations.TableBuildSpec : Prop :=
  (∀ (n : Nat) (len : List (BitVec 4)),
    buildTable n len = none ↔
      len.length ≠ n ∨ ∃ l, 1 ≤ l ∧ l ≤ 15 ∧ 2 ^ l < firstCode len l + lenCount len l) ∧
  (∀ (n : Nat) (len : List (BitVec 4)) (h : HuffTable), buildTable n len = some h →
    h.decodeLen.length = 16 ∧ h.decodeLen.getD 0 1 = 0 ∧ h.decodePos.getD 0 1 = 0 ∧
    (∀ l < 15, h.decodeLen.getD l 0 ≤ h.decodeLen.getD (l + 1) 0 ∧ h.decodeLen.getD (l + 1) 0 ≤ 0x10000 ∧
      h.decodePos.getD (l + 1) 0 = h.decodePos.getD l 0 + lenCount len l ∧
      (h.decodeLen.getD l 0 = h.decodeLen.getD (l + 1) 0 ↔ lenCount len (l + 1) = 0)) ∧
    h.nUsed = len.countP (fun x => x != 0) ∧ h.decodeNum.length = h.nUsed ∧
    (h.decodeNum.Pairwise fun a b =>
      (len.getD a 0).toNat < (len.getD b 0).toNat ∨ ((len.getD a 0).toNat = (len.getD b 0).toNat ∧ a < b)) ∧
    ∀ x, x ∈ h.decodeNum ↔ x < n ∧ len.getD x 0 ≠ 0)

/-- 41_huffman.md R180: for every code-length array that builds, decoding the canonical bits of a symbol sequence gives the
sequence back, and the cursor stands after its bits. -/
def Obligations.HuffmanRoundTrip : Prop :=
  ∀ (t : TableId) (len : List (BitVec 4)) (h : HuffTable) (syms : List Nat) (s : State),
    buildTable (tableSize t) len = some h → (∀ x ∈ syms, x < tableSize t ∧ len.getD x 0 ≠ 0) →
    s.tables.select t = h → s.pos + (encodeSyms len syms).length ≤ s.endPos →
    (∀ k < (encodeSyms len syms).length, s.streamBit (s.pos + k) = (encodeSyms len syms).getD k false) →
    decodeSyms t syms.length s = .ok syms (s.seek (s.pos + (encodeSyms len syms).length))

/-- 41_huffman.md R160, R175, R176, R178: HTB.BUILD and SD.DECODE as rows (result port: entry 3). The bucket is the least
length whose boundary lies above the 16 peeked bits; CorruptStream comes before Truncated. -/
def Obligations.HuffmanRows : Prop :=
  ∀ (t : TableId) (len : List (BitVec 4)) (s : State),
    let h := s.tables.select t
    let p := s.peekVal 16
    (∀ g, buildTable (tableSize t) len = some g →
      exec (.htbBuild t len) s = .next { s with tables := s.tables.replace t g }) ∧
    (buildTable (tableSize t) len = none → exec (.htbBuild t len) s = .next (s.raise .invalidTable)) ∧
    ((∀ l, 1 ≤ l → l ≤ 15 → h.decodeLen.getD l 0 ≤ p) → exec (.sdDecode t) s = .next (s.raise .corruptStream)) ∧
    ∀ bits, 1 ≤ bits → bits ≤ 15 → p < h.decodeLen.getD bits 0 →
      (∀ l, 1 ≤ l → l < bits → h.decodeLen.getD l 0 ≤ p) →
      let x := h.decodePos.getD bits 0 + (p - h.decodeLen.getD (bits - 1) 0) / 2 ^ (16 - bits)
      (s.endPos < s.pos + bits → exec (.sdDecode t) s = .next (s.raise .truncated)) ∧
      (s.pos + bits ≤ s.endPos → x < h.nUsed → exec (.sdDecode t) s =
        .next { s.seek (s.pos + bits) with port := .symbol (h.decodeNum.getD x 0) })

/-- 42_window.md R195 to R197: SWB.PUT, SWB.COPY: their checks and their effect. -/
def Obligations.WindowRows : Prop :=
  ∀ (b : Byte) (len dist : Word) (s : State),
    let hv := min s.host.hlen.toNat s.cfg.histMax
    let ok := dist ≠ 0 ∧ dist.toNat ≤ hv + s.swb.wptr.toNat ∧
      s.swb.wptr.toNat + len.toNat ≤ s.host.unpackedSize.toNat
    (s.swb.wptr = s.host.unpackedSize → exec (.swbPut b) s = .next (s.raise .corruptStream)) ∧
    (s.swb.wptr ≠ s.host.unpackedSize → exec (.swbPut b) s = .next { s with
      swb := ⟨s.swb.mem.write s.swb.wptr.toNat b, s.swb.wptr + 1⟩ }) ∧
    (¬ ok → exec (.swbCopy len dist) s = .next (s.raise .corruptStream)) ∧
    (ok → exec (.swbCopy len dist) s = .next (s.copyBytes dist.toNat len.toNat))

/-- 42_window.md R197, R198: what a legal copy leaves: `wptr` moved by `len`, byte `j` of the copy the byte `j mod dist` of
the `dist` bytes before it (also where it overlaps itself), every earlier byte of the window kept, nothing else changed. -/
def Obligations.CopyIsPeriodic : Prop :=
  ∀ (s : State) (len dist : Word), s.swb.mem.wf = true → s.copyAllowed len dist = true →
    let t := s.copyBytes dist.toNat len.toNat
    t = { s with swb := t.swb } ∧ t.swb.wptr = s.swb.wptr + len ∧
    (∀ j < len.toNat, t.swb.mem.read (s.swb.wptr.toNat + j) = s.spaceByte (s.spaceLen - dist.toNat + j % dist.toNat)) ∧
    (∀ a, a < s.swb.wptr.toNat ∨ s.swb.wptr.toNat + len.toNat ≤ a → t.swb.mem.read a = s.swb.mem.read a)

/-- 42_window.md R200, R201, R203: RING.INSERT, RING.SELECT, SETLAST (the selected distance on the result port: entry 3). -/
def Obligations.RingRows : Prop :=
  ∀ (d len dist a b c e : Word) (s : State), s.ring = #v[a, b, c, e] →
    exec (.ringInsert d) s = .next { s with ring := #v[d, a, b, c] } ∧
    exec (.ringSelect 0) s = .next { s with ring := #v[a, b, c, e], port := .word a } ∧
    exec (.ringSelect 1) s = .next { s with ring := #v[b, a, c, e], port := .word b } ∧
    exec (.ringSelect 2) s = .next { s with ring := #v[c, a, b, e], port := .word c } ∧
    exec (.ringSelect 3) s = .next { s with ring := #v[e, a, b, c], port := .word e } ∧
    exec (.setLast len dist) s = .next { s with last := ⟨len, dist⟩ }

/-! ### Block header and symbols -/

/-- 43_unpack_engine.md R220 to R223, 30_encoding.md R93, R94: the header: alignment, the two low-distance registers cleared,
`rsv` before `reuse`, a reuse of tables, or a table description, read by the rules of `MetaRun`, and its meta-alphabet built.
That the row includes the description is entry 27. -/
def Obligations.BlockHeaderResults : Prop :=
  ∀ (s : State),
    let s0 : State := { s with bc := s.bc.align, low := ⟨0, 0⟩ }
    let s1 := s0.seek (s0.pos + 1)
    let s2 := s1.seek (s1.pos + 1)
    (s0.canRead 1 = false → exec .blockHeader s = .next (s0.raise .truncated)) ∧
    (s0.canRead 1 = true → s0.peekVal 1 = 1 → exec .blockHeader s = .next (s1.raise .corruptStream)) ∧
    (s0.canRead 1 = true → s0.peekVal 1 = 0 → s1.canRead 1 = false → exec .blockHeader s = .next (s1.raise .truncated)) ∧
    (s0.canRead 1 = true → s0.peekVal 1 = 0 → s1.canRead 1 = true →
      (s1.peekVal 1 = 1 → s.tables.valid = false → exec .blockHeader s = .next (s2.raise .corruptStream)) ∧
      (s1.peekVal 1 = 1 → s.tables.valid = true →
        exec .blockHeader s = .next { s2 with ue := .decodingSymbols, hdr := .start }) ∧
      (s1.peekVal 1 = 0 →
        (∃ r t, MetaRun [] s2 r t) ∧
        (∀ k t, MetaRun [] s2 (.error k) t → exec .blockHeader s = .next (t.raise k)) ∧
        ∀ ml t, MetaRun [] s2 (.ok ml) t →
          (buildTable 20 ml = none → exec .blockHeader s = .next (t.raise .invalidTable)) ∧
          (∀ h, buildTable 20 ml = some h → exec .blockHeader s = .next { t with
            tables := { t.tables with md := h }, ue := .readingTables, hdr := .lengths, lens := [] })))

/-- 43_unpack_engine.md R224, R225: the length symbols before the last: MD.LEN appends its length, a run appends N + 3 or
N + 11 times the previous length or 0; the two InvalidTable conditions, checked after N is read. R226, 30_encoding.md R100:
the symbol that completes the 404 lengths, a length or a run, builds LD, DD, LDD and RD from their parts of the array, marks
the tables valid and enters the symbol loop, or raises InvalidTable where one does not build. -/
def Obligations.LengthSymbolResultsAndLast : Prop :=
  ∀ (l : BitVec 4) (s : State),
    let runs := [(Instr.mdRepPrev3, 3, 3, true), (.mdRepPrev11, 7, 11, true), (.mdRepZero3, 3, 3, false),
      (.mdRepZero11, 7, 11, false)]
    let last := fun (i : Instr) (t : State) (lens : List (BitVec 4)) =>
      (∀ ld dd ldd rd, buildTable 299 (lens.take 299) = some ld → buildTable 60 ((lens.drop 299).take 60) = some dd →
        buildTable 17 ((lens.drop 359).take 17) = some ldd → buildTable 28 (lens.drop 376) = some rd →
        exec i s = .next { t with
          tables := { ld := ld, dd := dd, ldd := ldd, rd := rd, md := s.tables.md, valid := true }
          ue := .decodingSymbols, hdr := .start, lens := [] }) ∧
      ((buildTable 299 (lens.take 299) = none ∨ buildTable 60 ((lens.drop 299).take 60) = none ∨
        buildTable 17 ((lens.drop 359).take 17) = none ∨ buildTable 28 (lens.drop 376) = none) →
        ∃ u : State, exec i s = .next (u.raise .invalidTable) ∧ u.bc = t.bc ∧ u.tables.valid = s.tables.valid)
    (s.lens.length + 1 < 404 → exec (.mdLen l) s = .next { s with lens := s.lens ++ [l] }) ∧
    (s.lens.length + 1 = 404 → last (.mdLen l) s (s.lens ++ [l])) ∧
    ∀ i w base prev, (i, w, base, prev) ∈ runs →
      let n := s.peekVal w + base
      let t := s.seek (s.pos + w)
      let lens := s.lens ++ List.replicate n (if prev then s.lens.getLastD 0 else 0)
      (s.canRead w = false → exec i s = .next (s.raise .truncated)) ∧
      (s.canRead w = true → ((prev = true ∧ s.lens = []) ∨ 404 < s.lens.length + n) →
        exec i s = .next (t.raise .invalidTable)) ∧
      (s.canRead w = true → (prev = true → s.lens ≠ []) → s.lens.length + n < 404 →
        exec i s = .next { t with lens := lens }) ∧
      (s.canRead w = true → (prev = true → s.lens ≠ []) → s.lens.length + n = 404 → last i t lens)

/-- 43_unpack_engine.md R227, R231, R235: LIT, REPL and EOB. An end-of-file mark before the declared size
raises. R233: SHORT0 to SHORT7. 30_encoding.md R104: `SDBASE` and `SDBITS`, the ranges one behind another. -/
def Obligations.LitReplEobShortResults : Prop :=
  (∀ (b : Byte) (s : State),
    let s1 := s.seek (s.pos + 1)
    let s2 := s1.seek (s1.pos + 1)
    (s.swb.wptr ≠ s.host.unpackedSize → exec (.lit b) s = .next { s with
      swb := ⟨s.swb.mem.write s.swb.wptr.toNat b, s.swb.wptr + 1⟩ }) ∧
    (s.last.len = 0 → exec .repl s = .next s) ∧
    (s.last.len ≠ 0 → s.copyAllowed s.last.len s.last.dist = true →
      exec .repl s = .next (s.copyBytes s.last.dist.toNat s.last.len.toNat)) ∧
    (s.canRead 1 = true → s.peekVal 1 = 1 → exec .eob s = .next { s1 with
      ue := .readingTables, hdr := .start, host := { s.host with progress := s.swb.wptr } }) ∧
    (s.canRead 1 = true → s.peekVal 1 = 0 → s1.canRead 1 = true → s.pend = [] →
      s.swb.wptr ≠ s.host.unpackedSize → exec .eob s = .next (s2.raise .corruptStream))) ∧
  (∀ (j : Nat) (i : Instr) (s : State), shortRows[j]? = some i → s.canRead (sdbits j) = true →
    let dist := BitVec.ofNat 32 (sdbase j + 1 + s.peekVal (sdbits j))
    let t := { s.seek (s.pos + sdbits j) with ring := #v[dist, s.ring[0], s.ring[1], s.ring[2]], last := ⟨2, dist⟩ }
    (s.copyAllowed 2 dist = true → exec i s = .next (t.copyBytes dist.toNat 2)) ∧
    (s.copyAllowed 2 dist = false → exec i s = .next (t.raise .corruptStream))) ∧
  (sdbase 0 = 0 ∧ sdbase 7 + 2 ^ sdbits 7 = 256 ∧ (∀ j < 7, sdbase (j + 1) = sdbase j + 2 ^ sdbits j) ∧
    sdbits 0 = 2 ∧ (∀ j < 5, sdbits (j + 1) = j + 2) ∧ sdbits 6 = 6 ∧ sdbits 7 = 6)

/-- 43_unpack_engine.md R232: REPD0 to REPD3: the ring entry moves to the front, the length comes from RD. -/
def Obligations.RepeatDistanceResults : Prop :=
  ∀ (k : Fin 4) (i : Instr) (r x : Nat) (s s2 s3 : State), repdRows[k.val]? = some i →
    decodeSym .rd { s with ring := selectRing s.ring k } = .ok r s2 → readExtra (lbits r) s2 = .ok x s3 →
    let dist := s.ring.get k
    let len := BitVec.ofNat 32 (lbase r + 2 + x)
    let t := { s3 with last := ⟨len, dist⟩ }
    (t.copyAllowed len dist = true → exec i s = .next (t.copyBytes dist.toNat len.toNat)) ∧
    (t.copyAllowed len dist = false → exec i s = .next (t.raise .corruptStream))

/-- 43_unpack_engine.md R228, R230: MATCH0 to MATCH27: length, distance, the length raised by 0, 1 or 2, ring and last match,
copy. 30_encoding.md R102: `LBASE` and `LBITS`, the ranges one behind another from 0 to 256. -/
def Obligations.MatchResults : Prop :=
  (∀ (q : Nat) (i : Instr) (x d dist : Nat) (s s1 s2 s3 : State), matchRows[q]? = some i →
    readExtra (lbits q) s = .ok x s1 → decodeSym .dd s1 = .ok d s2 → readDistance d s2 = .ok dist s3 →
    let len := BitVec.ofNat 32
      (lbase q + 3 + x + (if dist < 0x2000 then 0 else if dist < 0x40000 then 1 else 2))
    let dw := BitVec.ofNat 32 dist
    let t := { s3 with ring := #v[dw, s3.ring[0], s3.ring[1], s3.ring[2]], last := ⟨len, dw⟩ }
    (t.copyAllowed len dw = true → exec i s = .next (t.copyBytes dw.toNat len.toNat)) ∧
    (t.copyAllowed len dw = false → exec i s = .next (t.raise .corruptStream))) ∧
  (lbase 0 = 0 ∧ lbase 27 + 2 ^ lbits 27 = 256 ∧ (∀ q < 27, lbase (q + 1) = lbase q + 2 ^ lbits q) ∧
    ∀ q < 28, lbits q = if q < 8 then 0 else q / 4 - 1)

/-- 43_unpack_engine.md R228, R229, 30_encoding.md R105: the distance after a DD symbol, by its number of extra bits, and the
two low-distance registers. 30_encoding.md R103: `DBASE` and `DBITS`, the ranges one behind another from 0 to 0x400000. -/
def Obligations.DistanceFields : Prop :=
  (∀ (d x : Nat) (s s1 : State),
    (dbits d = 0 → readDistance d s = .ok (dbase d + 1) s) ∧
    (1 ≤ dbits d → dbits d ≤ 3 → s.canRead (dbits d) = true →
      readDistance d s = .ok (dbase d + 1 + s.peekVal (dbits d)) (s.seek (s.pos + dbits d))) ∧
    (4 ≤ dbits d → readExtra (dbits d - 4) s = .ok x s1 →
      (s1.low.rep ≠ 0 → readDistance d s =
        .ok (dbase d + 1 + 16 * x + s1.low.prev.toNat) { s1 with low := ⟨s1.low.prev, s1.low.rep - 1⟩ }) ∧
      ∀ y s2, s1.low.rep = 0 → decodeSym .ldd s1 = .ok y s2 →
        (y = 16 → readDistance d s = .ok (dbase d + 1 + 16 * x + s2.low.prev.toNat) { s2 with low := ⟨s2.low.prev, 15⟩ }) ∧
        (y < 16 → readDistance d s =
          .ok (dbase d + 1 + 16 * x + y) { s2 with low := ⟨BitVec.ofNat 4 y, s2.low.rep⟩ }))) ∧
  (dbase 0 = 0 ∧ dbase 59 + 2 ^ dbits 59 = 0x400000 ∧ (∀ d < 59, dbase (d + 1) = dbase d + 2 ^ dbits d) ∧
    ∀ d < 60, dbits d = if d < 4 then 0 else if d < 36 then d / 2 - 1 else if d < 48 then 16 else 18)

/-! ### Filter records, programs and their execution -/

/-- 43_unpack_engine.md R236, R243, R256: FILT and FILTER_CONTROL_BYTE: the record is consumed whole, then parsed; the
instance goes to the tail of the queue, its program becomes the last filter; a new program is registered with execution count 0
and the instance's length, an old one takes the instance's two words (R248, R249, R251). A record that does not parse raises
CorruptStream (the FILTER_CONTROL_BYTE row by itself is entry 26). R243, 30_encoding.md R108: the record length the
filter-control byte selects. -/
def Obligations.FilterSymbolAndRecordLength : Prop :=
  (∀ (fb : Byte) (n : Nat) (record : List Byte) (s s1 s2 : State),
    readRecordLen fb s = .ok n s1 → bcReadFields n s1 = .ok record s2 →
    let ends := fun t : State => exec (.filterControlByte fb) s = .next t ∧
      ∀ s0, s0.canRead 8 = true → s0.peekVal 8 = fb.toNat → s0.seek (s0.pos + 8) = s → exec .filt s0 = .next t
    (∀ r rest, parseRecord s2 fb (bytesBits record) = some (r, rest) →
      let i := r.inst
      let after := fun reg : List RegEntry =>
        { s2 with registry := reg, lastFilter := BitVec.ofNat 32 i.prog, pend := s2.pend ++ [i] }
      (∀ p, r.program = some p →
        ends (after (s2.registry ++ [{ prog := p, execCount := 0, lastBlockLength := i.blockLength }]))) ∧
      (r.program = none → ∃ e, s2.registry[i.prog]? = some e ∧
        ends (after (s2.registry.set i.prog { e with execCount := i.execCount, lastBlockLength := i.blockLength })))) ∧
    (parseRecord s2 fb (bytesBits record) = none → ends (s2.raise .corruptStream))) ∧
  (∀ (fb : Byte) (s : State),
    let k := (fb &&& 7).toNat + 1
    (k ≤ 6 → readRecordLen fb s = .ok k s) ∧
    (k = 7 → s.canRead 8 = true → readRecordLen fb s = .ok (s.peekVal 8 + 7) (s.seek (s.pos + 8))) ∧
    (k = 8 → s.canRead 16 = true → readRecordLen fb s = .ok (s.peekVal 16) (s.seek (s.pos + 16))))

/-- 43_unpack_engine.md R246 to R255: what every parsed record satisfies: index, program exactly when new, execution count,
start at or after the window position, the two range checks, register defaults without `F_REGS`, length defaults without
`F_LENGTH`, user data bound. -/
def Obligations.ParsedRecordIsLegal : Prop :=
  ∀ (s : State) (fb : Byte) (bits rest : List Bool) (r : ParsedRecord), parseRecord s fb bits = some (r, rest) →
    let i := r.inst
    i.prog ≤ s.registry.length ∧ (r.program.isSome = true ↔ i.prog = s.registry.length) ∧
    (r.program.isSome = true → s.registry.length ≠ s.cfg.filtMax ∧ i.execCount = 0) ∧
    (∀ e, s.registry[i.prog]? = some e → i.execCount = e.execCount + 1) ∧
    (fb.getLsbD 7 = false → i.prog = s.lastFilter.toNat) ∧
    s.swb.wptr.toNat + (if fb.getLsbD 6 then 258 else 0) ≤ i.blockStart.toNat ∧
    i.blockStart.toNat + i.blockLength.toNat ≤ s.host.unpackedSize.toNat ∧ i.blockLength.toNat ≤ 0x3C000 ∧
    (fb.getLsbD 5 = false → ∀ e, s.registry[i.prog]? = some e → i.blockLength = e.lastBlockLength) ∧
    (fb.getLsbD 5 = false → r.program.isSome = true → i.blockLength = 0) ∧
    (fb.getLsbD 4 = false → i.initR = #v[0, 0, 0, 0x3C000, i.blockLength, i.execCount, 0]) ∧
    i.userData.length ≤ 0x1FC0 ∧ (fb.getLsbD 3 = false → i.userData = [])

/-- 44_fvm_program.md R287, R288, 20_memory.md R68: the FVM at the start of an execution: registers, and the words and bytes
of `Mem`. R292: the result of an execution; one that would reach 0x40000 is empty. -/
def Obligations.ExecutionStartAndResult : Prop :=
  (∀ (p : FilterProgram) (i : FilterInstance) (d : List Byte), i.wf = true → d.length = i.blockLength.toNat →
    let f := loadFvm p i d
    let g := 0x3C040 + i.userData.length
    (∀ k : Fin 8, f.reg k = if k.val = 7 then 0x40000 else if k.val = 6 then i.blockStart else i.initR.toList.getD k.val 0) ∧
    f.flags = 0 ∧ f.ip = 0 ∧ f.ops = 0 ∧ f.ended = false ∧ f.mem.wf = true ∧
    (∀ k < d.length, f.mem.read k = d.getD k 0) ∧
    (∀ k : Fin 7, memRead32 f.mem (0x3C000 + 4 * BitVec.ofNat 32 k.val) = i.initR.get k) ∧
    memRead32 f.mem 0x3C01C = i.blockLength ∧ memRead32 f.mem 0x3C020 = 0 ∧ memRead32 f.mem 0x3C024 = i.blockStart ∧
    memRead32 f.mem 0x3C028 = 0 ∧ memRead32 f.mem 0x3C02C = i.execCount ∧
    (∀ k < i.userData.length, f.mem.read (0x3C040 + k) = i.userData.getD k 0) ∧
    (∀ k, k < p.staticData.length → g + k < 0x3E000 → f.mem.read (g + k) = p.staticData.getD k 0) ∧
    (∀ x, (d.length ≤ x ∧ x < 0x3C000) ∨ (0x3C030 ≤ x ∧ x < 0x3C040) ∨
      (min (g + p.staticData.length) 0x3E000 ≤ x) → f.mem.read x = 0)) ∧
  (∀ (m : Memory),
    let pos := (memRead32 m 0x3C020 &&& 0x3FFFF).toNat
    let size := (memRead32 m 0x3C01C &&& 0x3FFFF).toNat
    (0x40000 ≤ pos + size → extractResult m = []) ∧
    (pos + size < 0x40000 → (extractResult m).length = size ∧ ∀ k < size, (extractResult m).getD k 0 = m.read (pos + k)))

/-- 43_unpack_engine.md R259, R260 to R262: UE.APPLY and UE.DRAIN as rows, in one piece (entry 15). -/
def Obligations.ApplyAndDrainResults : Prop :=
  ∀ (i : FilterInstance) (e : RegEntry) (s : State),
    let start := { s with ret := s.ue, ue := .applyFilter, fvm := loadFvm e.prog i (s.blockBytes i) }
    (s.registry[i.prog]? = some e → s.ready i = true → ∀ u, fvmRun e.prog s.cfg.fvmMaxOps start = .ok () u →
      let out := extractResult u.fvm.mem
      (out.length = i.blockLength.toNat → exec (.ueApply i) s = .next { u with
        swb := { s.swb with mem := s.swb.mem.writeRange i.blockStart.toNat out }, ue := s.ue }) ∧
      (out.length ≠ i.blockLength.toNat → exec (.ueApply i) s = .next (u.raise .corruptStream))) ∧
    (s.pend = [] → exec .ueDrain s = .next s) ∧
    (∀ l, s.pend = i :: l → s.ready i = false → exec .ueDrain s = .next s) ∧
    (∀ l u, s.pend = i :: l → s.ready i = true → exec (.ueApply i) s = .next u → u.ue ≠ .failed →
      exec .ueDrain s = exec .ueDrain { u with pend := l })

/-- 44_fvm_program.md R280, R287 to R292: FVM.COMPILE and FVM.EXEC as rows (result port: entry 3; the program of an instance:
entry 15). -/
def Obligations.CompileAndExecRows : Prop :=
  ∀ (code : List Byte) (i : FilterInstance) (d : List Byte) (e : RegEntry) (s : State),
    (∀ p, compileBlob s.cfg.signatures code = some p →
      exec (.fvmCompile code) s = .next { s with port := .program p }) ∧
    (compileBlob s.cfg.signatures code = none → exec (.fvmCompile code) s = .next (s.raise .corruptStream)) ∧
    (s.registry[i.prog]? = some e → ∀ u, fvmRun e.prog s.cfg.fvmMaxOps { s with fvm := loadFvm e.prog i d } = .ok () u →
      exec (.fvmExec i d) s = .next { u with port := .bytes (extractResult u.fvm.mem) }) ∧
    (s.registry[i.prog]? = some e → ∀ k u,
      fvmRun e.prog s.cfg.fvmMaxOps { s with fvm := loadFvm e.prog i d } = .error (.raise k) u →
      exec (.fvmExec i d) s = .next (u.raise k))

/-! ### The sequencer: what a step does -/

/-- 44_fvm_program.md R289 to R291, 47_fvm_control.md R370: while a filter runs a step executes the command at `ip`, counted;
at the ceiling it raises FilterOverrun instead; at or beyond the last command, or after "end", the execution is over and the
result is written back. -/
def Obligations.StepRunsTheCommandAtIp : Prop :=
  ∀ (i : FilterInstance) (p : FilterProgram) (s : State), s.host.ctrlStart = false → s.ue = .applyFilter →
    s.running = some (i, p) →
    (∀ c, s.fvm.ended = false → p.cmds[s.fvm.ip.toNat]? = some c → s.fvm.ops < s.cfg.fvmMaxOps → c.isCommand = true →
      step s = exec c { s with fvm := { s.fvm with ops := s.fvm.ops + 1 } }) ∧
    (∀ c, s.fvm.ended = false → p.cmds[s.fvm.ip.toNat]? = some c → s.cfg.fvmMaxOps ≤ s.fvm.ops →
      step s = .next (s.raise .filterOverrun)) ∧
    ((s.fvm.ended = true ∨ p.cmds.length ≤ s.fvm.ip.toNat) →
      let out := extractResult s.fvm.mem
      (out.length = i.blockLength.toNat → step s = .next { s with
        swb := { s.swb with mem := s.swb.mem.writeRange i.blockStart.toNat out }, ue := s.ret, pend := s.pend.drop 1 }) ∧
      (out.length ≠ i.blockLength.toNat → step s = .next (s.raise .corruptStream)))

/-- 43_unpack_engine.md R218, R224, R227: between symbols a step first starts the head of the queue where its range is
produced, then ends a complete session, and else decodes one symbol of LD (or the header, or one length symbol of MD) and
executes its instruction. -/
def Obligations.StepRunsTheDecodedSymbol : Prop :=
  ∀ (s : State), s.host.ctrlStart = false →
    let idle := ∀ i ∈ s.pend.head?, s.ready i = false
    let open' := s.swb.wptr ≠ s.host.unpackedSize
    (s.ue = .decodingSymbols → idle → open' → ∀ x i t, decodeSym .ld s = .ok x t → ldInstr x = .ok i →
      step s = exec i t) ∧
    (s.ue = .decodingSymbols → idle → open' → ∀ k t, decodeSym .ld s = .error (.raise k) t →
      step s = .next (t.raise k)) ∧
    (s.ue = .readingTables → s.hdr = .start → idle → open' → step s = exec .blockHeader s) ∧
    (s.ue = .readingTables → s.hdr = .lengths → ∀ x i t, decodeSym .md s = .ok x t → mdInstr x = .ok i →
      step s = exec i t) ∧
    ((s.ue = .decodingSymbols ∨ (s.ue = .readingTables ∧ s.hdr = .start)) → idle → ¬ open' →
      step s = .next { s with ue := .done, host := { s.host with status := .done, progress := s.swb.wptr } }) ∧
    ((s.ue = .decodingSymbols ∨ (s.ue = .readingTables ∧ s.hdr = .start)) →
      ∀ i l e, s.pend = i :: l → s.ready i = true → s.registry[i.prog]? = some e →
      step s = .next { s with ret := s.ue, ue := .applyFilter, fvm := loadFvm e.prog i (s.blockBytes i) })

/-- 10_state.md R52, 43_unpack_engine.md R216, R217, 70_reset_and_hazards.md R442: a write of `CTRL.START`: the session reset
and the entry state of `METHOD`; ignored while BUSY; method 2 refused. -/
def Obligations.SessionStart : Prop :=
  ∀ (s : State), s.host.ctrlStart = true →
    let h := { s.host with ctrlStart := false, status := .busy, errKind := 0, progress := 0 }
    let r : State := { s with
      host := h, bc := ⟨0, 0⟩, tables := ⟨.empty, .empty, .empty, .empty, .empty, false⟩, ring := #v[0, 0, 0, 0]
      last := ⟨0, 0⟩, low := ⟨0, 0⟩, swb := ⟨[], 0⟩, registry := [], lastFilter := 0, pend := [], hdr := .start, lens := [] }
    (s.host.status = .busy → step s = .next { s with host := { s.host with ctrlStart := false } }) ∧
    (s.host.status ≠ .busy →
      (s.host.method = 0 → step s = .next { r with ue := .stored }) ∧
      (s.host.method = 3 → step s = .next { r with ue := .readingTables }) ∧
      (s.host.method = 2 → step s = .refused .methodV20) ∧
      ((s.host.method = 1 ∨ 4 ≤ s.host.method.toNat) →
        step s = .next { r with ue := .failed, host := { h with status := .error, errKind := 4 } }))

/-- 43_unpack_engine.md R219, R239: method STORED copies `UNPACKED_SIZE` whole bytes to the window and is done, or raises
Truncated. -/
def Obligations.StoredCopiesThePayload : Prop :=
  ∀ (s : State), s.host.ctrlStart = false → s.ue = .stored → s.bc = ⟨0, 0⟩ → s.swb.mem = [] →
    let n := s.host.unpackedSize.toNat
    (s.host.plen.toNat < n → step s = .next (s.raise .truncated)) ∧
    (n ≤ s.host.plen.toNat → ∃ t, step s = .next t ∧ t.ue = .done ∧ t.host.status = .done ∧
      t.host.progress = s.host.unpackedSize ∧ t.swb.wptr = s.host.unpackedSize ∧
      (∀ a < n, t.swb.mem.read a = s.host.payload.read a) ∧ t.bc = ⟨s.host.unpackedSize, 0⟩ ∧
      t.registry = s.registry ∧ t.pend = s.pend ∧ t.tables = s.tables ∧ t.fvm = s.fvm)

/-- 60_exceptions.md R411, R415: what a raise leaves, and the code of each kind. -/
def Obligations.RaiseEndsTheSession : Prop :=
  ∀ (k : ErrKind) (s : State),
    s.raise k = { s with ue := .failed, host := { s.host with status := .error, errKind := k.code } } ∧
    ErrKind.code .truncated = 1 ∧ ErrKind.code .invalidTable = 2 ∧ ErrKind.code .corruptStream = 3 ∧
    ErrKind.code .unsupportedMethod = 4 ∧ ErrKind.code .filterOverrun = 5 ∧ ErrKind.code .invalidHeader = 6

/-- 10_state.md R53: what the spec gives of the machine after power-on; every other field is the model's (entry 4). The
invariants below hold then. -/
def Obligations.PowerOnMeetsInvariants : Prop :=
  (State.reset.host.status = .idle ∧ State.reset.host.errKind = 0 ∧ State.reset.host.progress = 0 ∧ State.reset.ue = .idle) ∧
  (State.reset.MemoriesWf ∧ State.reset.CursorOk ∧ State.reset.WindowOk ∧ State.reset.MemInSpace ∧ State.reset.OpsOk ∧
    State.reset.Inv)

/-! ### What every step keeps -/

/-- 10_state.md R26 to R30, 42_window.md R205: no step changes a parameter, an argument, the payload or the history. -/
def Obligations.StepKeepsArguments : Prop :=
  ∀ (s t : State), step s = .next t → s.SameArguments t

/-- Every step keeps the canonical form of the four memories (entry 5). -/
def Obligations.StepKeepsMemoriesCanonical : Prop :=
  ∀ (s t : State), s.MemoriesWf → step s = .next t → t.MemoriesWf

/-- 10_state.md R32, 40_bitcursor.md R144: the cursor never passes the end of the payload. R39, 42_window.md R195, R196: the
write cursor never passes the declared size. -/
def Obligations.StepKeepsCursorsInBounds : Prop :=
  (∀ (s t : State), s.CursorOk → step s = .next t → t.CursorOk) ∧
  (∀ (s t : State), s.WindowOk → step s = .next t → t.WindowOk)

/-- 20_memory.md R66: `Mem` holds no byte outside its 0x40000. -/
def Obligations.StepKeepsMemInSpace : Prop :=
  ∀ (s t : State), s.MemInSpace → step s = .next t → t.MemInSpace

/-- 43_unpack_engine.md R253 to R259, 10_state.md R40, R41, R44: the queue and the registry stay legal, the tables stay within
their alphabets. 44_fvm_program.md R291: the count of commands stays at or below the ceiling. -/
def Obligations.StepKeepsInvariant : Prop :=
  (∀ (s t : State), s.Inv → step s = .next t → t.Inv) ∧ (∀ (s t : State), s.OpsOk → step s = .next t → t.OpsOk)

/-- 60_exceptions.md R420: from a state that meets the invariant no step ends in a fault of the model. -/
def Obligations.InvariantStepNeverFaults : Prop :=
  ∀ (s : State) (r : Fault), s.Inv → step s ≠ .fault r

/-- 43_unpack_engine.md R259 to R262, 44_fvm_program.md R289: what `Apply` does in one piece is what the steps do one command
at a time, followed by the removal of the head; an error of the one is the error of the other. That a step is one command is
entry 1, that the rows UE.APPLY and UE.DRAIN run in one piece entry 15. -/
def Obligations.ApplyIsItsSteps : Prop :=
  ∀ (i : FilterInstance) (l : List FilterInstance) (s : State), s.host.ctrlStart = false → s.pend = i :: l →
    s.ready i = true → (s.ue = .decodingSymbols ∨ (s.ue = .readingTables ∧ s.hdr = .start)) →
    (∀ t, applyInstance i s = .ok () t → ∃ k, runSteps k s = .next { t with pend := l }) ∧
    (∀ e t, applyInstance i s = .error (.raise e) t → ∃ k, runSteps k s = .next (t.raise e))

/-- 44_fvm_program.md R291: an execution counts at most `FVM_MAX_OPS` commands, and a program that runs past them raises
FilterOverrun. -/
def Obligations.ExecutionIsBounded : Prop :=
  ∀ (p : FilterProgram) (i : FilterInstance) (d : List Byte) (s : State), p.cmds.all Instr.isCommand = true →
    (∃ t, fvmRun p s.cfg.fvmMaxOps { s with fvm := loadFvm p i d } = .ok () t ∧ t.fvm.ops ≤ s.cfg.fvmMaxOps ∧
      (t.fvm.ended = true ∨ p.cmds.length ≤ t.fvm.ip.toNat)) ∨
    (∃ t, fvmRun p s.cfg.fvmMaxOps { s with fvm := loadFvm p i d } = .error (.raise .filterOverrun) t ∧
      t.fvm.ops = s.cfg.fvmMaxOps ∧ t.fvm.ip.toNat < p.cmds.length) ∨
    ∃ t, fvmRun p s.cfg.fvmMaxOps { s with fvm := loadFvm p i d } = .error (.raise .corruptStream) t

/-- 10_state.md R29, 70_reset_and_hazards.md R447: `OUT` is read in status DONE only, until the next start, and is
`UNPACKED_SIZE` bytes of the window (that it is the register as it stands at the read is entry 30). R443 to R446: the host
writes the arguments and appends to the history between sessions only, within `SIZE_MAX` (that a pending start counts as a
session is entry 17). -/
def Obligations.HostReadsAndWritesAreGuarded : Prop :=
  ∀ (s : State),
    let busy := s.host.ctrlStart = true ∨ s.host.status = .busy
    (s.host.status = .done → s.host.ctrlStart = false →
      s.hostReadOut = .ok (s.swb.mem.readRange 0 s.host.unpackedSize.toNat) ∧
      (s.swb.mem.readRange 0 s.host.unpackedSize.toNat).length = s.host.unpackedSize.toNat) ∧
    ((s.host.status ≠ .done ∨ s.host.ctrlStart = true) → s.hostReadOut = .error .outNotExposed) ∧
    (∀ (method : BitVec 8) (size : Word) (payload hist : List Byte),
      (busy → s.hostArguments method size payload hist = .error .hostBusy) ∧
      (¬ busy → (0xFFFFFFFF < payload.length ∨ 0xFFFFFFFF < hist.length) →
        s.hostArguments method size payload hist = .error .aboveSizeMax) ∧
      (¬ busy → payload.length ≤ 0xFFFFFFFF → hist.length ≤ 0xFFFFFFFF → ∃ h : HostPort,
        s.hostArguments method size payload hist = .ok { s with host := h } ∧
        h.method = method ∧ h.unpackedSize = size ∧ h.plen.toNat = payload.length ∧ h.hlen.toNat = hist.length ∧
        (∀ a < payload.length, h.payload.read a = payload.getD a 0) ∧
        (∀ a < hist.length, h.hist.read a = hist.getD a 0) ∧
        h.ctrlStart = s.host.ctrlStart ∧ h.status = s.host.status ∧ h.errKind = s.host.errKind ∧
        h.progress = s.host.progress)) ∧
    ∀ (out : List Byte), s.host.hist.wf = true →
      let n := s.host.hlen.toNat
      (busy → s.hostAppendHistory out = .error .hostBusy) ∧
      (¬ busy → 0xFFFFFFFF < n + out.length → s.hostAppendHistory out = .error .aboveSizeMax) ∧
      (¬ busy → n + out.length ≤ 0xFFFFFFFF → ∃ m : Memory,
        s.hostAppendHistory out =
          .ok { s with host := { s.host with hist := m, hlen := s.host.hlen + BitVec.ofNat 32 out.length } } ∧
        (∀ k < out.length, m.read (n + k) = out.getD k 0) ∧
        ∀ a, a < n ∨ n + out.length ≤ a → m.read a = s.host.hist.read a)
end

