-- ==== Sys2Proof/Laws/Monad.lean ====
section
/-! SUPPORT. How the operations of Machine/Ops.lean run: one equation per building block. -/

namespace Sys2Proof.Machine

variable {α β : Type}

@[simp] theorem fvm_run_pure (a : α) (f : Fvm) : (pure a : FvmOp α) f = .ok a f := rfl
@[simp] theorem fvm_run_get (f : Fvm) : (get : FvmOp Fvm) f = .ok f f := rfl
@[simp] theorem fvm_run_set (g f : Fvm) : (set g : FvmOp PUnit) f = .ok ⟨⟩ g := rfl
@[simp] theorem fvm_run_modify (h : Fvm → Fvm) (f : Fvm) : (modify h : FvmOp PUnit) f = .ok ⟨⟩ (h f) := rfl
@[simp] theorem fvm_run_raise (k : ErrKind) (f : Fvm) : (fvmRaise k : FvmOp α) f = .error k f := rfl
@[simp] theorem fvm_run_ite (c : Prop) [Decidable c] (m n : FvmOp α) (f : Fvm) :
    (if c then m else n) f = if c then m f else n f := by split <;> rfl

/-- A sequence of FVM operations runs the first, then the second on what it leaves. -/
theorem fvm_run_bind (m : FvmOp α) (k : α → FvmOp β) (f : Fvm) :
    (m >>= k) f = match m f with | .ok a g => k a g | .error e g => .error e g := by
  change EStateM.bind m k f = _
  unfold EStateM.bind
  cases m f <;> rfl

@[simp] theorem fvm_run_map (h : α → β) (m : FvmOp α) (f : Fvm) :
    (h <$> m) f = match m f with | .ok a g => .ok (h a) g | .error e g => .error e g := by
  change EStateM.map h m f = _
  unfold EStateM.map
  cases m f <;> rfl

theorem fvm_bind_ok {m : FvmOp α} {k : α → FvmOp β} {f g : Fvm} {a : α} (h : m f = .ok a g) : (m >>= k) f = k a g := by
  rw [fvm_run_bind, h]

theorem fvm_bind_error {m : FvmOp α} {k : α → FvmOp β} {f g : Fvm} {e : ErrKind} (h : m f = .error e g) :
    (m >>= k) f = .error e g := by
  rw [fvm_run_bind, h]

@[simp] theorem op_run_pure (a : α) (s : State) : (pure a : Op α) s = .ok a s := rfl
@[simp] theorem op_run_get (s : State) : (get : Op State) s = .ok s s := rfl
@[simp] theorem op_run_set (t s : State) : (set t : Op PUnit) s = .ok ⟨⟩ t := rfl
@[simp] theorem op_run_modify (h : State → State) (s : State) : (modify h : Op PUnit) s = .ok ⟨⟩ (h s) := rfl
@[simp] theorem op_run_throw (e : Stop) (s : State) : (throw e : Op α) s = .error e s := rfl
@[simp] theorem op_run_raise (k : ErrKind) (s : State) : (opRaise k : Op α) s = .error (.raise k) s := rfl
@[simp] theorem op_run_ite (c : Prop) [Decidable c] (m n : Op α) (s : State) :
    (if c then m else n) s = if c then m s else n s := by split <;> rfl

/-- A sequence of operations runs the first, then the second on what it leaves. -/
theorem op_run_bind (m : Op α) (k : α → Op β) (s : State) :
    (m >>= k) s = match m s with | .ok a t => k a t | .error e t => .error e t := by
  change EStateM.bind m k s = _
  unfold EStateM.bind
  cases m s <;> rfl

@[simp] theorem op_run_map (h : α → β) (m : Op α) (s : State) :
    (h <$> m) s = match m s with | .ok a t => .ok (h a) t | .error e t => .error e t := by
  change EStateM.map h m s = _
  unfold EStateM.map
  cases m s <;> rfl

theorem op_bind_ok {m : Op α} {k : α → Op β} {s t : State} {a : α} (h : m s = .ok a t) : (m >>= k) s = k a t := by
  rw [op_run_bind, h]

theorem op_bind_error {m : Op α} {k : α → Op β} {s t : State} {e : Stop} (h : m s = .error e t) :
    (m >>= k) s = .error e t := by
  rw [op_run_bind, h]

/-- A sequence that succeeds: both parts did. -/
theorem op_bind_eq_ok {m : Op α} {k : α → Op β} {s u : State} {b : β} (h : (m >>= k) s = .ok b u) :
    ∃ a t, m s = .ok a t ∧ k a t = .ok b u := by
  rw [op_run_bind] at h
  split at h
  · exact ⟨_, _, ‹_›, h⟩
  · cases h

/-- A sequence that stops: the first part did, or the second on what the first left. -/
theorem op_bind_eq_error {m : Op α} {k : α → Op β} {s u : State} {e : Stop} (h : (m >>= k) s = .error e u) :
    m s = .error e u ∨ ∃ a t, m s = .ok a t ∧ k a t = .error e u := by
  rw [op_run_bind] at h
  split at h
  · exact .inr ⟨_, _, ‹_›, h⟩
  · exact .inl (by simp_all)

theorem liftFvm_ok {m : FvmOp α} {s : State} {f : Fvm} {a : α} (h : m s.fvm = .ok a f) :
    liftFvm m s = .ok a { s with fvm := f } := by
  simp [liftFvm, h]

theorem liftFvm_error {m : FvmOp α} {s : State} {f : Fvm} {k : ErrKind} (h : m s.fvm = .error k f) :
    liftFvm m s = .error (.raise k) { s with fvm := f } := by
  simp [liftFvm, h]

/-- What a lifted FVM operation can do: it changes the FVM and nothing else, and stops only by a decode error. -/
theorem liftFvm_cases (m : FvmOp α) (s : State) :
    (∃ a f, m s.fvm = .ok a f ∧ liftFvm m s = .ok a { s with fvm := f }) ∨
      ∃ k f, m s.fvm = .error k f ∧ liftFvm m s = .error (.raise k) { s with fvm := f } := by
  cases h : m s.fvm with
  | ok a f => exact .inl ⟨a, f, rfl, liftFvm_ok h⟩
  | error k f => exact .inr ⟨k, f, rfl, liftFvm_error h⟩

theorem runOp_ok {m : Op Unit} {s t : State} (h : m s = .ok () t) : runOp m s = .next t := by
  simp [runOp, h]

theorem runOp_raise {m : Op Unit} {s t : State} {k : ErrKind} (h : m s = .error (.raise k) t) :
    runOp m s = .next (t.raise k) := by
  simp [runOp, h]

theorem runOp_fault {m : Op Unit} {s t : State} {r : Fault} (h : m s = .error (.fault r) t) : runOp m s = .fault r := by
  simp [runOp, h]

theorem runOp_refuse {m : Op Unit} {s t : State} {r : Refusal} (h : m s = .error (.refuse r) t) :
    runOp m s = .refused r := by
  simp [runOp, h]

/-- When an operation answers a next state: it succeeded there, or raised a decode error. -/
theorem runOp_eq_next {m : Op Unit} {s t : State} (h : runOp m s = .next t) :
    m s = .ok () t ∨ ∃ k u, m s = .error (.raise k) u ∧ t = u.raise k := by
  unfold runOp at h
  split at h <;> simp_all

theorem runFvm_ok {m : FvmOp Unit} {s : State} {f : Fvm} (h : m s.fvm = .ok () f) :
    runFvm m s = .next { s with fvm := f } := runOp_ok (liftFvm_ok h)

theorem runFvm_raise {m : FvmOp Unit} {s : State} {f : Fvm} {k : ErrKind} (h : m s.fvm = .error k f) :
    runFvm m s = .next (State.raise { s with fvm := f } k) := runOp_raise (liftFvm_error h)

/-- What an FVM command can do: a next state that differs in the FVM, or the raise of a decode error on such a state. -/
theorem runFvm_cases (m : FvmOp Unit) (s : State) :
    (∃ f, m s.fvm = .ok () f ∧ runFvm m s = .next { s with fvm := f }) ∨
      ∃ k f, m s.fvm = .error k f ∧ runFvm m s = .next (State.raise { s with fvm := f } k) := by
  cases h : m s.fvm with
  | ok a f => exact .inl ⟨f, rfl, runFvm_ok h⟩
  | error k f => exact .inr ⟨k, f, rfl, runFvm_raise h⟩

end Sys2Proof.Machine
end

