-- ==== Sys2Proof/Laws/State.lean ====
section
/-! SUPPORT. One lemma per field per update of the state: no later proof unfolds a record update. -/

namespace Sys2Proof.Machine

section FvmFields
variable (f : Fvm) (r : Fin 8) (v : Word) (m : Memory)

@[simp] theorem Fvm.setReg_regs : (f.setReg r v).regs = f.regs.set r v := rfl
@[simp] theorem Fvm.setReg_flags : (f.setReg r v).flags = f.flags := rfl
@[simp] theorem Fvm.setReg_ip : (f.setReg r v).ip = f.ip := rfl
@[simp] theorem Fvm.setReg_mem : (f.setReg r v).mem = f.mem := rfl
@[simp] theorem Fvm.setReg_ops : (f.setReg r v).ops = f.ops := rfl
@[simp] theorem Fvm.setReg_ended : (f.setReg r v).ended = f.ended := rfl
@[simp] theorem Fvm.setMem_regs : (f.setMem m).regs = f.regs := rfl
@[simp] theorem Fvm.setMem_flags : (f.setMem m).flags = f.flags := rfl
@[simp] theorem Fvm.setMem_ip : (f.setMem m).ip = f.ip := rfl
@[simp] theorem Fvm.setMem_mem : (f.setMem m).mem = m := rfl
@[simp] theorem Fvm.setMem_ops : (f.setMem m).ops = f.ops := rfl
@[simp] theorem Fvm.setMem_ended : (f.setMem m).ended = f.ended := rfl
@[simp] theorem Fvm.setFlags_regs : (f.setFlags v).regs = f.regs := rfl
@[simp] theorem Fvm.setFlags_flags : (f.setFlags v).flags = v := rfl
@[simp] theorem Fvm.setFlags_ip : (f.setFlags v).ip = f.ip := rfl
@[simp] theorem Fvm.setFlags_mem : (f.setFlags v).mem = f.mem := rfl
@[simp] theorem Fvm.setFlags_ops : (f.setFlags v).ops = f.ops := rfl
@[simp] theorem Fvm.setFlags_ended : (f.setFlags v).ended = f.ended := rfl
@[simp] theorem Fvm.setIp_regs : (f.setIp v).regs = f.regs := rfl
@[simp] theorem Fvm.setIp_flags : (f.setIp v).flags = f.flags := rfl
@[simp] theorem Fvm.setIp_ip : (f.setIp v).ip = v := rfl
@[simp] theorem Fvm.setIp_mem : (f.setIp v).mem = f.mem := rfl
@[simp] theorem Fvm.setIp_ops : (f.setIp v).ops = f.ops := rfl
@[simp] theorem Fvm.setIp_ended : (f.setIp v).ended = f.ended := rfl
@[simp] theorem Fvm.advance_regs : (f.advance).regs = f.regs := rfl
@[simp] theorem Fvm.advance_flags : (f.advance).flags = f.flags := rfl
@[simp] theorem Fvm.advance_ip : (f.advance).ip = f.ip + 1 := rfl
@[simp] theorem Fvm.advance_mem : (f.advance).mem = f.mem := rfl
@[simp] theorem Fvm.advance_ops : (f.advance).ops = f.ops := rfl
@[simp] theorem Fvm.advance_ended : (f.advance).ended = f.ended := rfl
@[simp] theorem Fvm.finish_regs : (f.finish).regs = f.regs := rfl
@[simp] theorem Fvm.finish_flags : (f.finish).flags = f.flags := rfl
@[simp] theorem Fvm.finish_ip : (f.finish).ip = f.ip := rfl
@[simp] theorem Fvm.finish_mem : (f.finish).mem = f.mem := rfl
@[simp] theorem Fvm.finish_ops : (f.finish).ops = f.ops := rfl
@[simp] theorem Fvm.finish_ended : (f.finish).ended = true := rfl
@[simp] theorem Fvm.countOp_regs : (f.countOp).regs = f.regs := rfl
@[simp] theorem Fvm.countOp_flags : (f.countOp).flags = f.flags := rfl
@[simp] theorem Fvm.countOp_ip : (f.countOp).ip = f.ip := rfl
@[simp] theorem Fvm.countOp_mem : (f.countOp).mem = f.mem := rfl
@[simp] theorem Fvm.countOp_ops : (f.countOp).ops = f.ops + 1 := rfl
@[simp] theorem Fvm.countOp_ended : (f.countOp).ended = f.ended := rfl

@[simp] theorem Fvm.setMem_reg : (f.setMem m).reg r = f.reg r := rfl
@[simp] theorem Fvm.setFlags_reg : (f.setFlags v).reg r = f.reg r := rfl
@[simp] theorem Fvm.setIp_reg : (f.setIp v).reg r = f.reg r := rfl
@[simp] theorem Fvm.advance_reg : f.advance.reg r = f.reg r := rfl
@[simp] theorem Fvm.finish_reg : f.finish.reg r = f.reg r := rfl
@[simp] theorem Fvm.countOp_reg : f.countOp.reg r = f.reg r := rfl

/-- A register after a register write. -/
theorem Fvm.reg_setReg (q : Fin 8) : (f.setReg r v).reg q = if q = r then v else f.reg q := by
  simp only [Fvm.reg, Fvm.setReg, Vector.get_eq_getElem]
  by_cases h : q = r
  · simp [h]
  · rw [if_neg h, Vector.getElem_set_ne _ _ (fun hn => h (Fin.ext hn.symm))]

@[simp] theorem Fvm.setReg_reg_self : (f.setReg r v).reg r = v := by simp [Fvm.reg_setReg]

end FvmFields

section StateFields
variable (s : State) (k : ErrKind) (p : Nat) (b : Byte) (i : Instr) (r : ParsedRecord)

@[simp] theorem State.raise_cfg : (s.raise k).cfg = s.cfg := rfl
@[simp] theorem State.raise_host : (s.raise k).host = { s.host with status := .error, errKind := k.code } := rfl
@[simp] theorem State.raise_bc : (s.raise k).bc = s.bc := rfl
@[simp] theorem State.raise_tables : (s.raise k).tables = s.tables := rfl
@[simp] theorem State.raise_ring : (s.raise k).ring = s.ring := rfl
@[simp] theorem State.raise_last : (s.raise k).last = s.last := rfl
@[simp] theorem State.raise_low : (s.raise k).low = s.low := rfl
@[simp] theorem State.raise_swb : (s.raise k).swb = s.swb := rfl
@[simp] theorem State.raise_registry : (s.raise k).registry = s.registry := rfl
@[simp] theorem State.raise_lastFilter : (s.raise k).lastFilter = s.lastFilter := rfl
@[simp] theorem State.raise_pend : (s.raise k).pend = s.pend := rfl
@[simp] theorem State.raise_ue : (s.raise k).ue = .failed := rfl
@[simp] theorem State.raise_ret : (s.raise k).ret = s.ret := rfl
@[simp] theorem State.raise_hdr : (s.raise k).hdr = s.hdr := rfl
@[simp] theorem State.raise_lens : (s.raise k).lens = s.lens := rfl
@[simp] theorem State.raise_fvm : (s.raise k).fvm = s.fvm := rfl
@[simp] theorem State.raise_port : (s.raise k).port = s.port := rfl
@[simp] theorem State.seek_cfg : (s.seek p).cfg = s.cfg := rfl
@[simp] theorem State.seek_host : (s.seek p).host = s.host := rfl
@[simp] theorem State.seek_bc : (s.seek p).bc = { byte := BitVec.ofNat 32 (p / 8), bit := BitVec.ofNat 3 (p % 8) } := rfl
@[simp] theorem State.seek_tables : (s.seek p).tables = s.tables := rfl
@[simp] theorem State.seek_ring : (s.seek p).ring = s.ring := rfl
@[simp] theorem State.seek_last : (s.seek p).last = s.last := rfl
@[simp] theorem State.seek_low : (s.seek p).low = s.low := rfl
@[simp] theorem State.seek_swb : (s.seek p).swb = s.swb := rfl
@[simp] theorem State.seek_registry : (s.seek p).registry = s.registry := rfl
@[simp] theorem State.seek_lastFilter : (s.seek p).lastFilter = s.lastFilter := rfl
@[simp] theorem State.seek_pend : (s.seek p).pend = s.pend := rfl
@[simp] theorem State.seek_ue : (s.seek p).ue = s.ue := rfl
@[simp] theorem State.seek_ret : (s.seek p).ret = s.ret := rfl
@[simp] theorem State.seek_hdr : (s.seek p).hdr = s.hdr := rfl
@[simp] theorem State.seek_lens : (s.seek p).lens = s.lens := rfl
@[simp] theorem State.seek_fvm : (s.seek p).fvm = s.fvm := rfl
@[simp] theorem State.seek_port : (s.seek p).port = s.port := rfl
@[simp] theorem State.emit_cfg : (s.emit b).cfg = s.cfg := rfl
@[simp] theorem State.emit_host : (s.emit b).host = s.host := rfl
@[simp] theorem State.emit_bc : (s.emit b).bc = s.bc := rfl
@[simp] theorem State.emit_tables : (s.emit b).tables = s.tables := rfl
@[simp] theorem State.emit_ring : (s.emit b).ring = s.ring := rfl
@[simp] theorem State.emit_last : (s.emit b).last = s.last := rfl
@[simp] theorem State.emit_low : (s.emit b).low = s.low := rfl
@[simp] theorem State.emit_swb : (s.emit b).swb = s.swb.append b := rfl
@[simp] theorem State.emit_registry : (s.emit b).registry = s.registry := rfl
@[simp] theorem State.emit_lastFilter : (s.emit b).lastFilter = s.lastFilter := rfl
@[simp] theorem State.emit_pend : (s.emit b).pend = s.pend := rfl
@[simp] theorem State.emit_ue : (s.emit b).ue = s.ue := rfl
@[simp] theorem State.emit_ret : (s.emit b).ret = s.ret := rfl
@[simp] theorem State.emit_hdr : (s.emit b).hdr = s.hdr := rfl
@[simp] theorem State.emit_lens : (s.emit b).lens = s.lens := rfl
@[simp] theorem State.emit_fvm : (s.emit b).fvm = s.fvm := rfl
@[simp] theorem State.emit_port : (s.emit b).port = s.port := rfl
@[simp] theorem State.popPend_cfg : (s.popPend).cfg = s.cfg := rfl
@[simp] theorem State.popPend_host : (s.popPend).host = s.host := rfl
@[simp] theorem State.popPend_bc : (s.popPend).bc = s.bc := rfl
@[simp] theorem State.popPend_tables : (s.popPend).tables = s.tables := rfl
@[simp] theorem State.popPend_ring : (s.popPend).ring = s.ring := rfl
@[simp] theorem State.popPend_last : (s.popPend).last = s.last := rfl
@[simp] theorem State.popPend_low : (s.popPend).low = s.low := rfl
@[simp] theorem State.popPend_swb : (s.popPend).swb = s.swb := rfl
@[simp] theorem State.popPend_registry : (s.popPend).registry = s.registry := rfl
@[simp] theorem State.popPend_lastFilter : (s.popPend).lastFilter = s.lastFilter := rfl
@[simp] theorem State.popPend_pend : (s.popPend).pend = s.pend.drop 1 := rfl
@[simp] theorem State.popPend_ue : (s.popPend).ue = s.ue := rfl
@[simp] theorem State.popPend_ret : (s.popPend).ret = s.ret := rfl
@[simp] theorem State.popPend_hdr : (s.popPend).hdr = s.hdr := rfl
@[simp] theorem State.popPend_lens : (s.popPend).lens = s.lens := rfl
@[simp] theorem State.popPend_fvm : (s.popPend).fvm = s.fvm := rfl
@[simp] theorem State.popPend_port : (s.popPend).port = s.port := rfl
@[simp] theorem State.complete_cfg : (s.complete).cfg = s.cfg := rfl
@[simp] theorem State.complete_host : (s.complete).host = { s.host with status := .done, progress := s.swb.wptr } := rfl
@[simp] theorem State.complete_bc : (s.complete).bc = s.bc := rfl
@[simp] theorem State.complete_tables : (s.complete).tables = s.tables := rfl
@[simp] theorem State.complete_ring : (s.complete).ring = s.ring := rfl
@[simp] theorem State.complete_last : (s.complete).last = s.last := rfl
@[simp] theorem State.complete_low : (s.complete).low = s.low := rfl
@[simp] theorem State.complete_swb : (s.complete).swb = s.swb := rfl
@[simp] theorem State.complete_registry : (s.complete).registry = s.registry := rfl
@[simp] theorem State.complete_lastFilter : (s.complete).lastFilter = s.lastFilter := rfl
@[simp] theorem State.complete_pend : (s.complete).pend = s.pend := rfl
@[simp] theorem State.complete_ue : (s.complete).ue = .done := rfl
@[simp] theorem State.complete_ret : (s.complete).ret = s.ret := rfl
@[simp] theorem State.complete_hdr : (s.complete).hdr = s.hdr := rfl
@[simp] theorem State.complete_lens : (s.complete).lens = s.lens := rfl
@[simp] theorem State.complete_fvm : (s.complete).fvm = s.fvm := rfl
@[simp] theorem State.complete_port : (s.complete).port = s.port := rfl
@[simp] theorem State.enqueue_cfg : (s.enqueue r).cfg = s.cfg := rfl
@[simp] theorem State.enqueue_host : (s.enqueue r).host = s.host := rfl
@[simp] theorem State.enqueue_bc : (s.enqueue r).bc = s.bc := rfl
@[simp] theorem State.enqueue_tables : (s.enqueue r).tables = s.tables := rfl
@[simp] theorem State.enqueue_ring : (s.enqueue r).ring = s.ring := rfl
@[simp] theorem State.enqueue_last : (s.enqueue r).last = s.last := rfl
@[simp] theorem State.enqueue_low : (s.enqueue r).low = s.low := rfl
@[simp] theorem State.enqueue_swb : (s.enqueue r).swb = s.swb := rfl
@[simp] theorem State.enqueue_registry : (s.enqueue r).registry = registerRecord s.registry r := rfl
@[simp] theorem State.enqueue_lastFilter : (s.enqueue r).lastFilter = BitVec.ofNat 32 r.inst.prog := rfl
@[simp] theorem State.enqueue_pend : (s.enqueue r).pend = s.pend ++ [r.inst] := rfl
@[simp] theorem State.enqueue_ue : (s.enqueue r).ue = s.ue := rfl
@[simp] theorem State.enqueue_ret : (s.enqueue r).ret = s.ret := rfl
@[simp] theorem State.enqueue_hdr : (s.enqueue r).hdr = s.hdr := rfl
@[simp] theorem State.enqueue_lens : (s.enqueue r).lens = s.lens := rfl
@[simp] theorem State.enqueue_fvm : (s.enqueue r).fvm = s.fvm := rfl
@[simp] theorem State.enqueue_port : (s.enqueue r).port = s.port := rfl
@[simp] theorem State.sessionReset_cfg : (s.sessionReset).cfg = s.cfg := rfl
@[simp] theorem State.sessionReset_ue : (s.sessionReset).ue = s.ue := rfl
@[simp] theorem State.sessionReset_ret : (s.sessionReset).ret = s.ret := rfl
@[simp] theorem State.sessionReset_fvm : (s.sessionReset).fvm = s.fvm := rfl
@[simp] theorem State.sessionReset_port : (s.sessionReset).port = s.port := rfl
@[simp] theorem State.sessionReset_swb : (s.sessionReset).swb = { mem := [], wptr := 0 } := rfl
@[simp] theorem State.sessionReset_registry : (s.sessionReset).registry = [] := rfl
@[simp] theorem State.sessionReset_pend : (s.sessionReset).pend = [] := rfl
@[simp] theorem State.sessionReset_lens : (s.sessionReset).lens = [] := rfl
@[simp] theorem State.sessionReset_hdr : (s.sessionReset).hdr = .start := rfl
@[simp] theorem State.sessionReset_lastFilter : (s.sessionReset).lastFilter = 0 := rfl
@[simp] theorem State.sessionReset_ring : (s.sessionReset).ring = #v[0, 0, 0, 0] := rfl
@[simp] theorem State.sessionReset_last : (s.sessionReset).last = { len := 0, dist := 0 } := rfl
@[simp] theorem State.sessionReset_low : (s.sessionReset).low = { prev := 0, rep := 0 } := rfl
@[simp] theorem State.sessionReset_bc : (s.sessionReset).bc = { byte := 0, bit := 0 } := rfl
@[simp] theorem State.hostStart_cfg : (s.hostStart).cfg = s.cfg := rfl
@[simp] theorem State.hostStart_host : (s.hostStart).host = { s.host with ctrlStart := true } := rfl
@[simp] theorem State.hostStart_bc : (s.hostStart).bc = s.bc := rfl
@[simp] theorem State.hostStart_tables : (s.hostStart).tables = s.tables := rfl
@[simp] theorem State.hostStart_ring : (s.hostStart).ring = s.ring := rfl
@[simp] theorem State.hostStart_last : (s.hostStart).last = s.last := rfl
@[simp] theorem State.hostStart_low : (s.hostStart).low = s.low := rfl
@[simp] theorem State.hostStart_swb : (s.hostStart).swb = s.swb := rfl
@[simp] theorem State.hostStart_registry : (s.hostStart).registry = s.registry := rfl
@[simp] theorem State.hostStart_lastFilter : (s.hostStart).lastFilter = s.lastFilter := rfl
@[simp] theorem State.hostStart_pend : (s.hostStart).pend = s.pend := rfl
@[simp] theorem State.hostStart_ue : (s.hostStart).ue = s.ue := rfl
@[simp] theorem State.hostStart_ret : (s.hostStart).ret = s.ret := rfl
@[simp] theorem State.hostStart_hdr : (s.hostStart).hdr = s.hdr := rfl
@[simp] theorem State.hostStart_lens : (s.hostStart).lens = s.lens := rfl
@[simp] theorem State.hostStart_fvm : (s.hostStart).fvm = s.fvm := rfl
@[simp] theorem State.hostStart_port : (s.hostStart).port = s.port := rfl

@[simp] theorem Window.append_wptr (w : Window) : (w.append b).wptr = w.wptr + 1 := rfl
@[simp] theorem Window.append_mem (w : Window) : (w.append b).mem = w.mem.write w.wptr.toNat b := rfl

end StateFields

end Sys2Proof.Machine
end

