-- ==== Sys2Proof/Laws/BitCursor.lean ====
section
/-! SUPPORT. What the cursor's operations and the SymbolDecoder do: one equation each, and what follows from success. -/

namespace Sys2Proof.Machine

variable {s t : State} {n v : Nat}

@[simp] theorem bcPeek_run (n : Nat) (s : State) : bcPeek n s = .ok (s.peekVal n) s := rfl
@[simp] theorem bcAlign_run (s : State) : bcAlign s = .ok () { s with bc := s.bc.align } := rfl

/-- A read with enough bits left (40_bitcursor.md R143). -/
theorem bcRead_ok (h : s.canRead n = true) : bcRead n s = .ok (s.peekVal n) (s.seek (s.pos + n)) := by
  simp [bcRead, op_run_bind, h]

/-- A read with too few bits left: nothing has moved (40_bitcursor.md R144). -/
theorem bcRead_short (h : s.canRead n = false) : bcRead n s = .error (.raise .truncated) s := by
  simp [bcRead, op_run_bind, h]

/-- Everything a read can do. -/
theorem bcRead_cases (n : Nat) (s : State) :
    (s.pos + n ≤ s.endPos ∧ bcRead n s = .ok (s.peekVal n) (s.seek (s.pos + n))) ∨
      (s.endPos < s.pos + n ∧ bcRead n s = .error (.raise .truncated) s) := by
  by_cases h : s.pos + n ≤ s.endPos
  · exact .inl ⟨h, bcRead_ok (by simpa [State.canRead] using h)⟩
  · exact .inr ⟨by omega, bcRead_short (by simpa [State.canRead] using by omega)⟩

/-- Everything a byte read can do (40_bitcursor.md R147): all bytes and an aligned cursor, or Truncated and nothing moved. -/
theorem bcReadBytes_cases (n : Nat) (s : State) :
    let b := s.bc.byte.toNat + (if s.bc.bit = 0 then 0 else 1)
    (b + n ≤ s.host.plen.toNat ∧ bcReadBytes n s = .ok (s.host.payload.readRange b n)
        { s with bc := ⟨BitVec.ofNat 32 (b + n), 0⟩ }) ∨
      (s.host.plen.toNat < b + n ∧ bcReadBytes n s = .error (.raise .truncated) s) := by
  dsimp only
  by_cases h : s.bc.byte.toNat + (if s.bc.bit = 0 then 0 else 1) + n ≤ s.host.plen.toNat
  · exact .inl ⟨h, by simp only [bcReadBytes, op_run_bind, op_run_get, op_run_ite, if_pos h]; rfl⟩
  · exact .inr ⟨Nat.lt_of_not_le h, by simp only [bcReadBytes, op_run_bind, op_run_get, op_run_ite, if_neg h]; rfl⟩

@[simp] theorem readExtra_zero : readExtra 0 = pure 0 := rfl

/-- A field of at least one bit is a read (43_unpack_engine.md R234). -/
theorem readExtra_pos (h : n ≠ 0) : readExtra n = bcRead n := if_neg h

/-- A position within the payload is stored whole (10_state.md R32). -/
theorem State.pos_seek {p : Nat} (h : p ≤ s.endPos) : (s.seek p).pos = p := by
  have hp : s.host.plen.toNat < 2 ^ 32 := s.host.plen.isLt
  simp only [State.endPos] at h
  simp only [State.pos, State.seek, BitVec.toNat_ofNat]
  omega

@[simp] theorem State.endPos_seek (p : Nat) : (s.seek p).endPos = s.endPos := rfl

/-- An aligned cursor stands at a byte boundary, at most 7 bits on (40_bitcursor.md R146). -/
theorem BitCursor.align_bit (c : BitCursor) : c.align.bit = 0 := by
  unfold BitCursor.align
  split <;> simp_all

/-- Everything `Decode` over a table can do (41_huffman.md R176, R178). -/
theorem decodeWith_cases (h : HuffTable) (s : State) :
    (∃ bits, h.bucket (s.peekVal 16) = some bits ∧ s.pos + bits ≤ s.endPos ∧
        h.index bits (s.peekVal 16) < h.nUsed ∧
        decodeWith h s = .ok (h.decodeNum.getD (h.index bits (s.peekVal 16)) 0) (s.seek (s.pos + bits))) ∨
      decodeWith h s = .error (.raise .truncated) s ∨ ∃ u, decodeWith h s = .error (.raise .corruptStream) u := by
  simp only [decodeWith, op_run_bind, bcPeek_run]
  cases hb : h.bucket (s.peekVal 16) with
  | none => exact .inr (.inr ⟨s, rfl⟩)
  | some bits =>
    simp only [op_run_bind]
    obtain ⟨hp, hr⟩ | ⟨-, hr⟩ := bcRead_cases bits s
    · rw [hr]
      by_cases hi : h.nUsed ≤ h.index bits (s.peekVal 16)
      · exact .inr (.inr ⟨s.seek (s.pos + bits), by simp [hi]⟩)
      · exact .inl ⟨bits, rfl, hp, by omega, by simp [hi]⟩
    · rw [hr]
      exact .inr (.inl rfl)

theorem decodeSym_run (i : TableId) (s : State) : decodeSym i s = decodeWith (s.tables.select i) s := by
  simp [decodeSym, op_run_bind]

/-- Everything `LowDist()` can do, apart from the errors of its `Decode` (43_unpack_engine.md R229). -/
theorem lowDist_run (s : State) :
    lowDist s = if s.low.rep ≠ 0 then .ok s.low.prev.toNat { s with low := ⟨s.low.prev, s.low.rep - 1⟩ }
      else match decodeSym .ldd s with
        | .ok x t =>
          if x = 16 then .ok t.low.prev.toNat { t with low := ⟨t.low.prev, 15⟩ }
          else .ok x { t with low := ⟨BitVec.ofNat 4 x, t.low.rep⟩ }
        | .error e t => .error e t := by
  simp only [lowDist, op_run_bind, op_run_get, op_run_ite, op_run_set, op_run_pure]
  split
  · rfl
  · cases decodeSym .ldd s with
    | error e t => rfl
    | ok x t => by_cases h : x = 16 <;> simp only [h, if_true, if_false] <;> rfl

end Sys2Proof.Machine
end

