-- ==== Sys2Proof/Laws/Memory.lean ====
section
/-! SUPPORT. The laws of byte memories: read after write, and every operation keeps the canonical form. -/

namespace Sys2Proof.Machine

theorem Memory.wfFrom_mono {lo hi : Nat} {m : Memory} (h : Memory.wfFrom hi m = true) (hl : lo ≤ hi) :
    Memory.wfFrom lo m = true := by
  cases m with
  | nil => rfl
  | cons c m =>
    obtain ⟨k, b⟩ := c
    simp only [Memory.wfFrom, Bool.and_eq_true, decide_eq_true_eq] at h ⊢
    exact ⟨⟨by omega, h.1.2⟩, h.2⟩

/-- Below the first address a canonical memory can list, every byte reads as unlisted. -/
theorem Memory.read_below {lo a : Nat} {m : Memory} (h : Memory.wfFrom lo m = true) (ha : a < lo) :
    m.read a = memDefault := by
  cases m with
  | nil => rfl
  | cons c m =>
    obtain ⟨k, b⟩ := c
    simp only [Memory.wfFrom, Bool.and_eq_true, decide_eq_true_eq] at h
    simp [Memory.read, show a < k by omega]

theorem Memory.wfFrom_write {lo a : Nat} {v : Byte} {m : Memory} (h : Memory.wfFrom lo m = true) (ha : lo ≤ a) :
    Memory.wfFrom lo (m.write a v) = true := by
  induction m generalizing lo with
  | nil =>
    unfold Memory.write
    split
    · rfl
    · simp [Memory.wfFrom, *]
  | cons c m ih =>
    obtain ⟨k, b⟩ := c
    simp only [Memory.wfFrom, Bool.and_eq_true, decide_eq_true_eq] at h
    unfold Memory.write
    split
    · split
      · simp [Memory.wfFrom, h]
      · have : a + 1 ≤ k := by omega
        simp_all [Memory.wfFrom]
    · split
      · split
        · exact Memory.wfFrom_mono h.2 (by omega)
        · simp_all [Memory.wfFrom]
      · simp only [Memory.wfFrom, Bool.and_eq_true, decide_eq_true_eq]
        exact ⟨h.1, ih h.2 (by omega)⟩

/-- A write keeps the canonical form. -/
theorem Memory.wf_write {m : Memory} (h : m.wf = true) (a : Nat) (v : Byte) : (m.write a v).wf = true :=
  Memory.wfFrom_write h (Nat.zero_le a)

theorem Memory.read_write_from {lo a : Nat} {m : Memory} (h : Memory.wfFrom lo m = true) (v : Byte) (x : Nat) :
    (m.write a v).read x = if x = a then v else m.read x := by
  induction m generalizing lo with
  | nil =>
    by_cases hv : v = memDefault <;> by_cases hx : x = a <;> simp [Memory.write, Memory.read, hv, hx]
  | cons c m ih =>
    obtain ⟨k, b⟩ := c
    simp only [Memory.wfFrom, Bool.and_eq_true, decide_eq_true_eq] at h
    unfold Memory.write
    split
    · rename_i hak
      split <;> by_cases hx : x = a
      · simp [Memory.read, *]
      · simp [hx]
      · simp [Memory.read, hx]
      · simp only [Memory.read, hx, if_false]
        split
        · rw [if_pos (by omega)]
        · rfl
    · split
      · rename_i hak
        subst hak
        split <;> by_cases hx : x = a
        · subst hx
          simp [*, Memory.read_below h.2 (Nat.lt_succ_self _)]
        · simp only [Memory.read, hx, if_false]
          split
          · exact Memory.read_below h.2 (by omega)
          · rfl
        · simp [Memory.read, hx]
        · simp [Memory.read, hx]
      · rename_i h1 h2
        simp only [Memory.read, ih h.2]
        by_cases hx : x = a
        · subst hx
          simp [h1, h2]
        · simp [hx]

/-- Read after write: the byte written reads as written, every other byte as before. -/
theorem Memory.read_write {m : Memory} (h : m.wf = true) (a : Nat) (v : Byte) (x : Nat) :
    (m.write a v).read x = if x = a then v else m.read x := Memory.read_write_from h v x

theorem Memory.wf_writeRange {m : Memory} (h : m.wf = true) (a : Nat) (bs : List Byte) :
    (m.writeRange a bs).wf = true := by
  induction bs generalizing m a with
  | nil => exact h
  | cons b bs ih => exact ih (Memory.wf_write h a b) (a + 1)

/-- What a stored byte string leaves at an address. -/
theorem Memory.read_writeRange {m : Memory} (h : m.wf = true) (a : Nat) (bs : List Byte) (x : Nat) :
    (m.writeRange a bs).read x = if a ≤ x then (bs[x - a]?).getD (m.read x) else m.read x := by
  induction bs generalizing m a with
  | nil => simp [Memory.writeRange]
  | cons b bs ih =>
    simp only [Memory.writeRange, ih (Memory.wf_write h a b), Memory.read_write h]
    by_cases hx : x = a
    · subst hx
      simp
    · by_cases ha : a ≤ x
      · have h1 : a + 1 ≤ x := by omega
        have h2 : x - a = (x - (a + 1)) + 1 := by omega
        simp [hx, ha, h1, h2]
      · simp [hx, ha, show ¬ a + 1 ≤ x by omega]

theorem memWrite8_wf {m : Memory} (h : m.wf = true) (a : Word) (v : Byte) : (memWrite8 m a v).wf = true :=
  Memory.wf_write h _ v

theorem memWrite32_wf {m : Memory} (h : m.wf = true) (a v : Word) : (memWrite32 m a v).wf = true :=
  memWrite8_wf (memWrite8_wf (memWrite8_wf (memWrite8_wf h _ _) _ _) _ _) _ _

theorem memWriteBytes_wf {m : Memory} (h : m.wf = true) (a : Nat) (bs : List Byte) :
    (memWriteBytes m a bs).wf = true := by
  induction bs generalizing m a with
  | nil => exact h
  | cons b bs ih => exact ih (Memory.wf_write h _ b) (a + 1)

/-- Read after a byte write of `Mem`. -/
theorem memRead8_memWrite8 {m : Memory} (h : m.wf = true) (a x : Word) (v : Byte) :
    memRead8 (memWrite8 m a v) x = if memIndex x = memIndex a then v else memRead8 m x := Memory.read_write h _ v _

/-- A byte of `Mem` outside the four a word write stores to reads as before. -/
theorem memWrite32_read_other {m : Memory} (h : m.wf = true) (a v : Word) (x : Nat)
    (hx : x ≠ memIndex a ∧ x ≠ memIndex (a + 1) ∧ x ≠ memIndex (a + 2) ∧ x ≠ memIndex (a + 3)) :
    (memWrite32 m a v).read x = m.read x := by
  obtain ⟨h0, h1, h2, h3⟩ := hx
  have w1 := memWrite8_wf h a (wordByte v 0)
  have w2 := memWrite8_wf w1 (a + 1) (wordByte v 1)
  have w3 := memWrite8_wf w2 (a + 2) (wordByte v 2)
  unfold memWrite32
  rw [show memWrite8 (memWrite8 (memWrite8 (memWrite8 m a (wordByte v 0)) (a + 1) (wordByte v 1)) (a + 2) (wordByte v 2))
      (a + 3) (wordByte v 3) = Memory.write _ (memIndex (a + 3)) (wordByte v 3) from rfl, Memory.read_write w3, if_neg h3]
  rw [show memWrite8 (memWrite8 (memWrite8 m a (wordByte v 0)) (a + 1) (wordByte v 1)) (a + 2) (wordByte v 2) =
      Memory.write _ (memIndex (a + 2)) (wordByte v 2) from rfl, Memory.read_write w2, if_neg h2]
  rw [show memWrite8 (memWrite8 m a (wordByte v 0)) (a + 1) (wordByte v 1) =
      Memory.write _ (memIndex (a + 1)) (wordByte v 1) from rfl, Memory.read_write w1, if_neg h1]
  exact (Memory.read_write h _ _ _).trans (if_neg h0)

end Sys2Proof.Machine
end

