-- ==== Sys2Proof/Laws/Operands.lean ====
section
/-! SUPPORT. What operand access and the shared forms of the FVM commands do: one equation each. -/

namespace Sys2Proof.Machine

variable {f : Fvm} {bm : Bool} {op op1 op2 : Operand} {ea v : Word}

@[simp] theorem eaOf_run (op : Operand) (f : Fvm) : eaOf op f = .ok (f.ea op) f := rfl

@[simp] theorem opRead_run (op : Operand) (bm : Bool) (ea : Word) (f : Fvm) :
    opRead op bm ea f = .ok (f.opVal op bm ea) f := rfl

/-- A write to a form that can be written (44_fvm_program.md R297). -/
theorem opWrite_ok (h : isImmForm op = false) : opWrite op bm ea v f = .ok () (f.store op bm ea v) := by
  simp [opWrite, h]

/-- A write to an immediate (44_fvm_program.md R298). -/
theorem opWrite_imm (h : isImmForm op = true) : opWrite op bm ea v f = .error .corruptStream f := by
  simp [opWrite, h]

@[simp] theorem advanceIp_run (f : Fvm) : advanceIp f = .ok () f.advance := rfl
@[simp] theorem putFlags_run (v : Word) (f : Fvm) : putFlags v f = .ok () (f.setFlags v) := rfl
@[simp] theorem putReg_run (r : Fin 8) (v : Word) (f : Fvm) : putReg r v f = .ok () (f.setReg r v) := rfl
@[simp] theorem putWord_run (a v : Word) (f : Fvm) : putWord a v f = .ok () (f.setMem (memWrite32 f.mem a v)) := rfl
@[simp] theorem growStack_run (f : Fvm) : growStack f = .ok (f.reg 7 - 4) (f.setReg 7 (f.reg 7 - 4)) := rfl
@[simp] theorem jumpTo_run (op : Operand) (a : Word) (f : Fvm) :
    jumpTo op a f = .ok () (f.setIp (f.opVal op false a)) := rfl

@[simp] theorem Fvm.store_flags : (f.store op bm ea v).flags = f.flags := by cases op <;> rfl
@[simp] theorem Fvm.store_ip : (f.store op bm ea v).ip = f.ip := by cases op <;> rfl
@[simp] theorem Fvm.store_ops : (f.store op bm ea v).ops = f.ops := by cases op <;> rfl
@[simp] theorem Fvm.store_ended : (f.store op bm ea v).ended = f.ended := by cases op <;> rfl

/-- The registers after a write: only a register operand's own register can change. -/
theorem Fvm.store_reg_other {r : Fin 8} (h : op ≠ .reg r) : (f.store op bm ea v).reg r = f.reg r := by
  cases op with
  | reg q =>
    have : r ≠ q := fun hr => h (by rw [hr])
    simp [Fvm.store, Fvm.reg_setReg, this]
  | _ => rfl

@[simp] theorem Fvm.store_reg_self {r : Fin 8} :
    (f.store (.reg r) bm ea v).reg r = regMerge bm (f.reg r) v := by simp [Fvm.store]

/-- The memory after a write: changed by a memory operand only. -/
theorem Fvm.store_mem : (f.store op bm ea v).mem = if isMemForm op then memWriteW f.mem bm ea v else f.mem := by
  cases op <;> rfl

theorem memWriteW_wf {m : Memory} (h : m.wf = true) : (memWriteW m bm ea v).wf = true := by
  unfold memWriteW
  split
  · exact memWrite8_wf h _ _
  · exact memWrite32_wf h _ _

theorem Fvm.store_wf (h : f.mem.wf = true) : (f.store op bm ea v).mem.wf = true := by
  rw [Fvm.store_mem]
  split
  · exact memWriteW_wf h
  · exact h

/-- The common form of the writing commands, on a destination that can be written. -/
theorem aluOp_ok {result flags : Word → Word → Word → Word} (h : isImmForm op1 = false) :
    aluOp bm op1 op2 result flags f = .ok ()
      (((f.setFlags (flags f.flags (f.opVal op1 bm (f.ea op1)) (f.opVal op2 bm (f.ea op2)))).store op1 bm (f.ea op1)
        (result f.flags (f.opVal op1 bm (f.ea op1)) (f.opVal op2 bm (f.ea op2)))).advance) := by
  simp [aluOp, fvm_run_bind, opWrite_ok h]

/-- The common form of the writing commands, on an immediate destination. -/
theorem aluOp_imm {result flags : Word → Word → Word → Word} (h : isImmForm op1 = true) :
    aluOp bm op1 op2 result flags f = .error .corruptStream
      (f.setFlags (flags f.flags (f.opVal op1 bm (f.ea op1)) (f.opVal op2 bm (f.ea op2)))) := by
  simp [aluOp, fvm_run_bind, opWrite_imm h]

/-- The common form of CMP and TEST. -/
theorem compareOp_ok {flags : Word → Word → Word} :
    compareOp bm op1 op2 flags f = .ok ()
      ((f.setFlags (flags (f.opVal op1 bm (f.ea op1)) (f.opVal op2 bm (f.ea op2)))).advance) := by
  simp [compareOp, fvm_run_bind]

/-- The eight stores of PUSHA, one by one (45_fvm_data.md R326). -/
theorem pushaMem_eq (f : Fvm) (sp : Word) (m : Memory) :
    let st := fun (i : Fin 8) (m : Memory) => memWrite32 m (sp - 4 - 4 * BitVec.ofNat 32 i.val) (f.reg i)
    pushaMem f sp m = st 7 (st 6 (st 5 (st 4 (st 3 (st 2 (st 1 (st 0 m))))))) := by
  simp only [pushaMem, List.finRange, List.ofFn, Fin.foldr, Fin.foldr.loop, List.foldl]
  rfl

/-- The common form of the jumps. -/
theorem jumpIf_ok {cond : Word → Bool} :
    jumpIf cond op1 f = .ok () (if cond f.flags then f.setIp (f.opVal op1 false (f.ea op1)) else f.advance) := by
  simp only [jumpIf, fvm_run_bind, eaOf_run, fvm_run_get, fvm_run_ite, jumpTo_run, advanceIp_run]
  split <;> rfl

end Sys2Proof.Machine
end

