-- ==== Sys2Proof/Laws/Exec.lean ====
section
/-! SUPPORT. The meaning of a command is its operation on the FVM. -/

namespace Sys2Proof.Machine

/-- A command's meaning is its operation on the FVM. -/
theorem exec_command {i : Instr} {m : FvmOp Unit} {s : State} (h : commandOp s.cfg.native i = some m) :
    exec i s = runFvm m s := by
  cases i <;> cases h <;> rfl

/-- The commands are the instructions with an operation on the FVM. -/
theorem commandOp_isSome (nc : NativeChoice) (i : Instr) : (commandOp nc i).isSome = i.isCommand := by cases i <;> rfl

/-- What a command can do: a next state that differs in the FVM alone, or the raise of a decode error on such a state. -/
theorem exec_command_cases {i : Instr} (h : i.isCommand = true) (s : State) :
    (∃ f, exec i s = .next { s with fvm := f }) ∨ ∃ k f, exec i s = .next (State.raise { s with fvm := f } k) := by
  rw [← commandOp_isSome s.cfg.native] at h
  obtain ⟨m, hm⟩ := Option.isSome_iff_exists.mp h
  rw [exec_command hm]
  obtain ⟨f, -, h⟩ | ⟨k, f, -, h⟩ := runFvm_cases m s
  · exact .inl ⟨f, h⟩
  · exact .inr ⟨k, f, h⟩

end Sys2Proof.Machine
end

