-- ==== Sys2Proof/Laws/HostPort.lean ====
section
/-! SUPPORT. What a write by the host can do, and the canonical form of the memories it leaves. -/

namespace Sys2Proof.Machine

variable {s t : State} {sizes : List Nat} {h : HostPort}

/-- A write by the host: refused while a session is open, refused above `SIZE_MAX`, else made
(70_reset_and_hazards.md R444, R445). -/
theorem State.hostWrite_cases (s : State) (sizes : List Nat) (h : HostPort) :
    (s.sessionOpen = true ∧ s.hostWrite sizes h = .error .hostBusy) ∨
    (s.sessionOpen = false ∧ (∃ n ∈ sizes, Config.sizeMax < n) ∧ s.hostWrite sizes h = .error .aboveSizeMax) ∨
    (s.sessionOpen = false ∧ (∀ n ∈ sizes, n ≤ Config.sizeMax) ∧ s.hostWrite sizes h = .ok { s with host := h }) := by
  unfold State.hostWrite
  cases ho : s.sessionOpen
  · by_cases hn : ∃ n ∈ sizes, Config.sizeMax < n
    · exact .inr (.inl ⟨rfl, hn, by simpa using hn⟩)
    · refine .inr (.inr ⟨rfl, fun n h => Nat.le_of_not_lt fun h' => hn ⟨n, h, h'⟩, ?_⟩)
      rw [if_neg Bool.false_ne_true, if_neg (by simpa using hn)]
  · exact .inl ⟨rfl, rfl⟩

/-- A write that is made sets the host's registers and memories. -/
theorem State.hostWrite_ok (ht : s.hostWrite sizes h = .ok t) : t = { s with host := h } := by
  obtain ⟨-, e⟩ | ⟨-, -, e⟩ | ⟨-, -, e⟩ := s.hostWrite_cases sizes h <;> rw [e] at ht <;> cases ht
  rfl

/-- The payload and the history the host writes are canonical. -/
theorem State.hostArguments_wf {method : BitVec 8} {size : Word} {payload hist : List Byte}
    (ht : s.hostArguments method size payload hist = .ok t) : t.host.payload.wf = true ∧ t.host.hist.wf = true := by
  rw [State.hostWrite_ok ht]
  exact ⟨Memory.wf_writeRange rfl 0 payload, Memory.wf_writeRange rfl 0 hist⟩

/-- The history stays canonical when the host appends to it. -/
theorem State.hostAppendHistory_wf {out : List Byte} (hs : s.host.hist.wf = true)
    (ht : s.hostAppendHistory out = .ok t) : t.host.hist.wf = true := by
  rw [State.hostWrite_ok ht]
  exact Memory.wf_writeRange hs _ out

end Sys2Proof.Machine
end

