-- ==== Sys2Proof/Laws/Native.lean ====
section
/-! SUPPORT. What `NATIVE[kind]` leaves of the FVM, whatever its value (47_fvm_control.md R391). -/

namespace Sys2Proof.Machine

variable (c : NativeChoice) (k : StdKind) (f : Fvm)

@[simp] theorem nativeApply_flags : (nativeApply c k f).flags = f.flags := by cases c <;> cases k <;> rfl
@[simp] theorem nativeApply_ip : (nativeApply c k f).ip = f.ip := by cases c <;> cases k <;> rfl
@[simp] theorem nativeApply_ops : (nativeApply c k f).ops = f.ops := by cases c <;> cases k <;> rfl
@[simp] theorem nativeApply_ended : (nativeApply c k f).ended = f.ended := by cases c <;> cases k <;> rfl
@[simp] theorem nativeApply_default_regs : (nativeApply .default k f).regs = f.regs := by cases k <;> rfl

/-- A value given in place of the default leaves a canonical `Mem`. -/
theorem nativeApply_given_wf (name : Nat) : (nativeApply (.given name) k f).mem.wf = true := memWriteBytes_wf rfl _ _

end Sys2Proof.Machine
end

