-- ==== Sys2Proof/Laws/PerInstr.lean ====
section
/-! SUPPORT. A family of statements made for every instruction: the length of an encoded command (30_encoding.md R123). -/

namespace Sys2Proof.Laws

/-- A field has as many bits as its width. -/
@[simp] theorem fieldBits_length (n v : Nat) : (fieldBits n v).length = n := by
  induction n with
  | zero => rfl
  | succ n ih => simp [fieldBits, ih]

/-- A number takes 6 to 34 bits (30_encoding.md R112). -/
theorem encodeVnum_length (v : Word) : 6 ≤ (encodeVnum v).length ∧ (encodeVnum v).length ≤ 34 := by
  unfold encodeVnum
  cases VnumForm.ofWord v <;> simp [VnumForm.encode]

/-- An operand takes 4 to 41 bits (30_encoding.md R116). -/
theorem encodeOperand_length (bm : Bool) (op : Operand) :
    4 ≤ (encodeOperand bm op).length ∧ (encodeOperand bm op).length ≤ 41 := by
  cases op with
  | reg r => simp [encodeOperand]
  | imm d =>
    have := encodeVnum_length d
    cases bm
    · simp [encodeOperand]; omega
    · simp [encodeOperand]
  | regmem0 r => simp [encodeOperand]
  | regmemB r b => have := encodeVnum_length b; simp [encodeOperand]; omega
  | absmem b => have := encodeVnum_length b; simp [encodeOperand]; omega

/-- An opcode takes 4 bits below 8 and 6 bits from there on (30_encoding.md R114). -/
theorem encodeOpcode_length (op : Nat) : (encodeOpcode op).length = if op < 8 then 4 else 6 := by
  unfold encodeOpcode
  split <;> simp [*]

/-- `F2` with a width bit. -/
theorem encodeF2B_length (op : Nat) (bm : Bool) (a b : Operand) :
    6 ≤ (encodeF2B op bm a b).length ∧ (encodeF2B op bm a b).length ≤ 89 := by
  have := encodeOperand_length bm a
  have := encodeOperand_length bm b
  simp only [encodeF2B, List.length_append, List.length_cons, encodeOpcode_length]
  split <;> omega

/-- `F2` without a width bit. -/
theorem encodeF2_length (op : Nat) (a b : Operand) :
    6 ≤ (encodeF2 op a b).length ∧ (encodeF2 op a b).length ≤ 89 := by
  have := encodeOperand_length false a
  have := encodeOperand_length false b
  simp only [encodeF2, List.length_append, encodeOpcode_length]
  split <;> omega

/-- `F1` with a width bit. -/
theorem encodeF1B_length (op : Nat) (bm : Bool) (a : Operand) :
    6 ≤ (encodeF1B op bm a).length ∧ (encodeF1B op bm a).length ≤ 89 := by
  have := encodeOperand_length bm a
  simp only [encodeF1B, List.length_append, List.length_cons, encodeOpcode_length]
  split <;> omega

/-- `F1` without a width bit. -/
theorem encodeF1_length (op : Nat) (a : Operand) : 6 ≤ (encodeF1 op a).length ∧ (encodeF1 op a).length ≤ 89 := by
  have := encodeOperand_length false a
  simp only [encodeF1, List.length_append, encodeOpcode_length]
  split <;> omega

/-- `F0`. -/
theorem encodeF0_length (op : Nat) (h : 8 ≤ op) : 6 ≤ (encodeOpcode op).length ∧ (encodeOpcode op).length ≤ 89 := by
  rw [encodeOpcode_length, if_neg (by omega)]
  omega

namespace EncodeLength

/-- A command that a blob can hold takes 6 to 89 bits (30_encoding.md R123). -/
def Statement (i : Instr) : Prop :=
  i.isEncodable = true → ∃ bits, encode i = some bits ∧ 6 ≤ bits.length ∧ bits.length ≤ 89

theorem mov (bm : Bool) (op1 op2 : Operand) : Statement (.mov bm op1 op2) := fun _ => ⟨_, rfl, encodeF2B_length ..⟩
theorem cmp (bm : Bool) (op1 op2 : Operand) : Statement (.cmp bm op1 op2) := fun _ => ⟨_, rfl, encodeF2B_length ..⟩
theorem add (bm : Bool) (op1 op2 : Operand) : Statement (.add bm op1 op2) := fun _ => ⟨_, rfl, encodeF2B_length ..⟩
theorem sub (bm : Bool) (op1 op2 : Operand) : Statement (.sub bm op1 op2) := fun _ => ⟨_, rfl, encodeF2B_length ..⟩
theorem jz (op1 : Operand) : Statement (.jz op1) := fun _ => ⟨_, rfl, encodeF1_length ..⟩
theorem jnz (op1 : Operand) : Statement (.jnz op1) := fun _ => ⟨_, rfl, encodeF1_length ..⟩
theorem inc (bm : Bool) (op1 : Operand) : Statement (.inc bm op1) := fun _ => ⟨_, rfl, encodeF1B_length ..⟩
theorem dec (bm : Bool) (op1 : Operand) : Statement (.dec bm op1) := fun _ => ⟨_, rfl, encodeF1B_length ..⟩
theorem jmp (op1 : Operand) : Statement (.jmp op1) := fun _ => ⟨_, rfl, encodeF1_length ..⟩
theorem bxor (bm : Bool) (op1 op2 : Operand) : Statement (.bxor bm op1 op2) := fun _ => ⟨_, rfl, encodeF2B_length ..⟩
theorem band (bm : Bool) (op1 op2 : Operand) : Statement (.band bm op1 op2) := fun _ => ⟨_, rfl, encodeF2B_length ..⟩
theorem bor (bm : Bool) (op1 op2 : Operand) : Statement (.bor bm op1 op2) := fun _ => ⟨_, rfl, encodeF2B_length ..⟩
theorem test (bm : Bool) (op1 op2 : Operand) : Statement (.test bm op1 op2) := fun _ => ⟨_, rfl, encodeF2B_length ..⟩
theorem js (op1 : Operand) : Statement (.js op1) := fun _ => ⟨_, rfl, encodeF1_length ..⟩
theorem jns (op1 : Operand) : Statement (.jns op1) := fun _ => ⟨_, rfl, encodeF1_length ..⟩
theorem jb (op1 : Operand) : Statement (.jb op1) := fun _ => ⟨_, rfl, encodeF1_length ..⟩
theorem jbe (op1 : Operand) : Statement (.jbe op1) := fun _ => ⟨_, rfl, encodeF1_length ..⟩
theorem ja (op1 : Operand) : Statement (.ja op1) := fun _ => ⟨_, rfl, encodeF1_length ..⟩
theorem jae (op1 : Operand) : Statement (.jae op1) := fun _ => ⟨_, rfl, encodeF1_length ..⟩
theorem push (op1 : Operand) : Statement (.push op1) := fun _ => ⟨_, rfl, encodeF1_length ..⟩
theorem pop (op1 : Operand) : Statement (.pop op1) := fun _ => ⟨_, rfl, encodeF1_length ..⟩
theorem call (op1 : Operand) : Statement (.call op1) := fun _ => ⟨_, rfl, encodeF1_length ..⟩
theorem ret : Statement .ret := fun _ => ⟨_, rfl, encodeF0_length 22 (by decide)⟩
theorem bnot (bm : Bool) (op1 : Operand) : Statement (.bnot bm op1) := fun _ => ⟨_, rfl, encodeF1B_length ..⟩
theorem shl (bm : Bool) (op1 op2 : Operand) : Statement (.shl bm op1 op2) := fun _ => ⟨_, rfl, encodeF2B_length ..⟩
theorem shr (bm : Bool) (op1 op2 : Operand) : Statement (.shr bm op1 op2) := fun _ => ⟨_, rfl, encodeF2B_length ..⟩
theorem sar (bm : Bool) (op1 op2 : Operand) : Statement (.sar bm op1 op2) := fun _ => ⟨_, rfl, encodeF2B_length ..⟩
theorem neg (bm : Bool) (op1 : Operand) : Statement (.neg bm op1) := fun _ => ⟨_, rfl, encodeF1B_length ..⟩
theorem pusha : Statement .pusha := fun _ => ⟨_, rfl, encodeF0_length 28 (by decide)⟩
theorem popa : Statement .popa := fun _ => ⟨_, rfl, encodeF0_length 29 (by decide)⟩
theorem pushf : Statement .pushf := fun _ => ⟨_, rfl, encodeF0_length 30 (by decide)⟩
theorem popf : Statement .popf := fun _ => ⟨_, rfl, encodeF0_length 31 (by decide)⟩
theorem movzx (op1 op2 : Operand) : Statement (.movzx op1 op2) := fun _ => ⟨_, rfl, encodeF2_length ..⟩
theorem movsx (op1 op2 : Operand) : Statement (.movsx op1 op2) := fun _ => ⟨_, rfl, encodeF2_length ..⟩
theorem xchg (bm : Bool) (op1 op2 : Operand) : Statement (.xchg bm op1 op2) := fun _ => ⟨_, rfl, encodeF2B_length ..⟩
theorem mul (bm : Bool) (op1 op2 : Operand) : Statement (.mul bm op1 op2) := fun _ => ⟨_, rfl, encodeF2B_length ..⟩
theorem div (bm : Bool) (op1 op2 : Operand) : Statement (.div bm op1 op2) := fun _ => ⟨_, rfl, encodeF2B_length ..⟩
theorem adc (bm : Bool) (op1 op2 : Operand) : Statement (.adc bm op1 op2) := fun _ => ⟨_, rfl, encodeF2B_length ..⟩
theorem sbb (bm : Bool) (op1 op2 : Operand) : Statement (.sbb bm op1 op2) := fun _ => ⟨_, rfl, encodeF2B_length ..⟩
theorem print : Statement .print := fun _ => ⟨_, rfl, encodeF0_length 39 (by decide)⟩
theorem standard (kind : StdKind) : Statement (.standard kind) := fun h => nomatch h
theorem nativeE8 : Statement .nativeE8 := fun h => nomatch h
theorem nativeE8E9 : Statement .nativeE8E9 := fun h => nomatch h
theorem nativeItanium : Statement .nativeItanium := fun h => nomatch h
theorem nativeDelta : Statement .nativeDelta := fun h => nomatch h
theorem nativeRgb : Statement .nativeRgb := fun h => nomatch h
theorem nativeAudio : Statement .nativeAudio := fun h => nomatch h
theorem nativeUpcase : Statement .nativeUpcase := fun h => nomatch h
theorem operandReg (bm : Bool) (r : Fin 8) : Statement (.operandReg bm r) := fun h => nomatch h
theorem operandImm (bm : Bool) (d : Word) : Statement (.operandImm bm d) := fun h => nomatch h
theorem operandRegmem0 (bm : Bool) (r : Fin 8) : Statement (.operandRegmem0 bm r) := fun h => nomatch h
theorem operandRegmemB (bm : Bool) (r : Fin 8) (b : Word) : Statement (.operandRegmemB bm r b) := fun h => nomatch h
theorem operandAbsmem (bm : Bool) (b : Word) : Statement (.operandAbsmem bm b) := fun h => nomatch h
theorem vnum00 (x : BitVec 4) : Statement (.vnum00 x) := fun h => nomatch h
theorem vnum01 (h l : BitVec 4) : Statement (.vnum01 h l) := fun h => nomatch h
theorem vnum01h0 (x : BitVec 8) : Statement (.vnum01h0 x) := fun h => nomatch h
theorem vnum10 (x : BitVec 16) : Statement (.vnum10 x) := fun h => nomatch h
theorem vnum11 (x : BitVec 32) : Statement (.vnum11 x) := fun h => nomatch h
theorem lit (b : Byte) : Statement (.lit b) := fun h => nomatch h
theorem eob : Statement .eob := fun h => nomatch h
theorem filt : Statement .filt := fun h => nomatch h
theorem repl : Statement .repl := fun h => nomatch h
theorem repd0 : Statement .repd0 := fun h => nomatch h
theorem repd1 : Statement .repd1 := fun h => nomatch h
theorem repd2 : Statement .repd2 := fun h => nomatch h
theorem repd3 : Statement .repd3 := fun h => nomatch h
theorem short0 : Statement .short0 := fun h => nomatch h
theorem short1 : Statement .short1 := fun h => nomatch h
theorem short2 : Statement .short2 := fun h => nomatch h
theorem short3 : Statement .short3 := fun h => nomatch h
theorem short4 : Statement .short4 := fun h => nomatch h
theorem short5 : Statement .short5 := fun h => nomatch h
theorem short6 : Statement .short6 := fun h => nomatch h
theorem short7 : Statement .short7 := fun h => nomatch h
theorem match0 : Statement .match0 := fun h => nomatch h
theorem match1 : Statement .match1 := fun h => nomatch h
theorem match2 : Statement .match2 := fun h => nomatch h
theorem match3 : Statement .match3 := fun h => nomatch h
theorem match4 : Statement .match4 := fun h => nomatch h
theorem match5 : Statement .match5 := fun h => nomatch h
theorem match6 : Statement .match6 := fun h => nomatch h
theorem match7 : Statement .match7 := fun h => nomatch h
theorem match8 : Statement .match8 := fun h => nomatch h
theorem match9 : Statement .match9 := fun h => nomatch h
theorem match10 : Statement .match10 := fun h => nomatch h
theorem match11 : Statement .match11 := fun h => nomatch h
theorem match12 : Statement .match12 := fun h => nomatch h
theorem match13 : Statement .match13 := fun h => nomatch h
theorem match14 : Statement .match14 := fun h => nomatch h
theorem match15 : Statement .match15 := fun h => nomatch h
theorem match16 : Statement .match16 := fun h => nomatch h
theorem match17 : Statement .match17 := fun h => nomatch h
theorem match18 : Statement .match18 := fun h => nomatch h
theorem match19 : Statement .match19 := fun h => nomatch h
theorem match20 : Statement .match20 := fun h => nomatch h
theorem match21 : Statement .match21 := fun h => nomatch h
theorem match22 : Statement .match22 := fun h => nomatch h
theorem match23 : Statement .match23 := fun h => nomatch h
theorem match24 : Statement .match24 := fun h => nomatch h
theorem match25 : Statement .match25 := fun h => nomatch h
theorem match26 : Statement .match26 := fun h => nomatch h
theorem match27 : Statement .match27 := fun h => nomatch h
theorem mdLen (s : BitVec 4) : Statement (.mdLen s) := fun h => nomatch h
theorem mdRepPrev3 : Statement .mdRepPrev3 := fun h => nomatch h
theorem mdRepPrev11 : Statement .mdRepPrev11 := fun h => nomatch h
theorem mdRepZero3 : Statement .mdRepZero3 := fun h => nomatch h
theorem mdRepZero11 : Statement .mdRepZero11 := fun h => nomatch h
theorem blockHeader : Statement .blockHeader := fun h => nomatch h
theorem filterControlByte (fb : Byte) : Statement (.filterControlByte fb) := fun h => nomatch h
theorem bcPeek (n : Fin 33) : Statement (.bcPeek n) := fun h => nomatch h
theorem bcRead (n : Fin 33) : Statement (.bcRead n) := fun h => nomatch h
theorem bcAlign : Statement .bcAlign := fun h => nomatch h
theorem bcReadBytes (n : Word) : Statement (.bcReadBytes n) := fun h => nomatch h
theorem htbBuild (t : TableId) (len : List (BitVec 4)) : Statement (.htbBuild t len) := fun h => nomatch h
theorem sdDecode (t : TableId) : Statement (.sdDecode t) := fun h => nomatch h
theorem swbPut (b : Byte) : Statement (.swbPut b) := fun h => nomatch h
theorem swbCopy (len dist : Word) : Statement (.swbCopy len dist) := fun h => nomatch h
theorem ringInsert (d : Word) : Statement (.ringInsert d) := fun h => nomatch h
theorem ringSelect (k : Fin 4) : Statement (.ringSelect k) := fun h => nomatch h
theorem setLast (len dist : Word) : Statement (.setLast len dist) := fun h => nomatch h
theorem ueDrain : Statement .ueDrain := fun h => nomatch h
theorem ueApply (inst : FilterInstance) : Statement (.ueApply inst) := fun h => nomatch h
theorem fvmCompile (code : List Byte) : Statement (.fvmCompile code) := fun h => nomatch h
theorem fvmExec (inst : FilterInstance) (d : List Byte) : Statement (.fvmExec inst d) := fun h => nomatch h

end EncodeLength

end Sys2Proof.Laws
end

