-- ==== Sys2Proof/Laws/Units.lean ====
section
/-! SUPPORT. What the shared operations of the window, the tables, the filters and the run loop do: one lemma each that says
all of it. -/

namespace Sys2Proof.Machine

variable {s : State} {i : FilterInstance} {p : FilterProgram} {e : RegEntry}

@[simp] theorem ringInsert_run (d : Word) (s : State) : ringInsert d s = .ok () { s with ring := insertRing s.ring d } := rfl
@[simp] theorem setLast_run (l d : Word) (s : State) : setLast l d s = .ok () { s with last := ⟨l, d⟩ } := rfl
@[simp] theorem ringSelect_run (k : Fin 4) (s : State) :
    ringSelect k s = .ok (s.ring.get k) { s with ring := selectRing s.ring k } := rfl

/-- `Win.put` (42_window.md R195). -/
theorem winPut_run (b : Byte) (s : State) :
    winPut b s = if s.swb.wptr = s.host.unpackedSize then .error (.raise .corruptStream) s else .ok () (s.emit b) := by
  simp only [winPut, op_run_bind, op_run_get, op_run_ite, op_run_raise, op_run_set]

/-- `Win.copy` (42_window.md R196, R197). -/
theorem winCopy_run (l d : Word) (s : State) :
    winCopy l d s = if s.copyAllowed l d = true then .ok () (s.copyBytes d.toNat l.toNat)
      else .error (.raise .corruptStream) s := by
  simp only [winCopy, op_run_bind, op_run_get, op_run_ite, op_run_raise, op_run_set]

/-- `Build` (41_huffman.md R160, R166). -/
theorem htbBuild_run (t : TableId) (len : List (BitVec 4)) (s : State) :
    htbBuild t len s = match buildTable (tableSize t) len with
      | none => .error (.raise .invalidTable) s
      | some h => .ok () { s with tables := s.tables.replace t h } := by
  unfold htbBuild
  cases buildTable (tableSize t) len <;> rfl

/-- Lengths appended to the array (43_unpack_engine.md R224, R226). -/
theorem appendLens_run (ls : List (BitVec 4)) (s : State) :
    appendLens ls s = if Config.huffTableSize ≤ (s.lens ++ ls).length then buildFour { s with lens := s.lens ++ ls }
      else .ok () { s with lens := s.lens ++ ls } := by
  simp only [appendLens, op_run_bind, op_run_modify, op_run_get]
  exact op_run_ite _ _ _ _

/-- A run of lengths with its field read (43_unpack_engine.md R224, R225): the two checks, the append. -/
theorem runLens_run {w base : Nat} {prev : Bool} (h : s.canRead w = true) :
    runLens w base prev s =
      if prev = true ∧ s.lens = [] then .error (.raise .invalidTable) (s.seek (s.pos + w))
      else if Config.huffTableSize < s.lens.length + (s.peekVal w + base) then
        .error (.raise .invalidTable) (s.seek (s.pos + w))
      else appendLens (List.replicate (s.peekVal w + base) (if prev then s.lens.getLastD 0 else 0)) (s.seek (s.pos + w)) := by
  simp only [runLens, op_run_bind, bcRead_ok h, op_run_get]
  rw [op_run_ite, op_run_ite]
  rfl

theorem lookupProgram_ok (h : s.registry[i.prog]? = some e) : lookupProgram i s = .ok e.prog s := by
  simp [lookupProgram, op_run_bind, h]

/-- Copy-in and load (43_unpack_engine.md R260). -/
theorem applyStart_ok (h : s.registry[i.prog]? = some e) (hr : s.ready i = true) :
    applyStart i s = .ok () { s with ret := s.ue, ue := .applyFilter, fvm := loadFvm e.prog i (s.blockBytes i) } := by
  simp [applyStart, op_run_bind, lookupProgram_ok h, hr]

/-- Write-back (43_unpack_engine.md R262). -/
theorem applyFinish_run (i : FilterInstance) (s : State) :
    applyFinish i s = if (extractResult s.fvm.mem).length = i.blockLength.toNat then
        .ok () { s with
          swb := { s.swb with mem := s.swb.mem.writeRange i.blockStart.toNat (extractResult s.fvm.mem) }, ue := s.ret }
      else .error (.raise .corruptStream) s := by
  simp only [applyFinish, op_run_bind, op_run_get, op_run_ite, op_run_set, op_run_raise]

/-- The run loop at or beyond the last command (44_fvm_program.md R290). -/
theorem fvmRun_end (k : Nat) (h : p.cmds[s.fvm.ip.toNat]? = none) : fvmRun p k s = .ok () s := by
  cases k <;> simp [fvmRun, op_run_bind, h]

/-- The run loop at the ceiling (44_fvm_program.md R291). -/
theorem fvmRun_zero {c : Instr} (h : p.cmds[s.fvm.ip.toNat]? = some c) :
    fvmRun p 0 s = .error (.raise .filterOverrun) s := by
  simp [fvmRun, op_run_bind, h]

/-- One round of the run loop (44_fvm_program.md R289): the command runs on the counted state, and "end" ends the loop. -/
theorem fvmRun_succ {c : Instr} {m : FvmOp Unit} (k : Nat) (h : p.cmds[s.fvm.ip.toNat]? = some c)
    (hm : commandOp s.cfg.native c = some m) :
    fvmRun p (k + 1) s = match m s.fvm.countOp with
      | .ok _ f => if f.ended = true then .ok () { s with fvm := f } else fvmRun p k { s with fvm := f }
      | .error e f => .error (.raise e) { s with fvm := f } := by
  simp only [fvmRun, op_run_bind, op_run_get, h, hm, op_run_set, liftFvm]
  cases m s.fvm.countOp with
  | error e f => rfl
  | ok a f => simp only [op_run_ite, op_run_pure]

end Sys2Proof.Machine
end

