-- ==== Sys2Proof/Laws/Within.lean ====
section
/-! SUPPORT. A calculus for what every run of an operation keeps: a reflexive and transitive relation between the state an
operation starts in and the state it leaves, whether it finishes or stops. -/

namespace Sys2Proof.Machine

variable {α β : Type} {R : State → State → Prop}

/-- The state an operation leaves, whether it finishes or stops. -/
def after (m : Op α) (s : State) : State :=
  match m s with
  | .ok _ t => t
  | .error _ t => t

/-- A reflexive and transitive relation between states. -/
structure Keeping (R : State → State → Prop) : Prop where
  refl : ∀ s, R s s
  trans : ∀ s t u, R s t → R t u → R s u

/-- Every run of `m` stays within `R`. -/
def Within (R : State → State → Prop) (m : Op α) : Prop := ∀ s, R s (after m s)

theorem after_ok {m : Op α} {s t : State} {a : α} (h : m s = .ok a t) : after m s = t := by simp [after, h]
theorem after_error {m : Op α} {s t : State} {e : Stop} (h : m s = .error e t) : after m s = t := by simp [after, h]

theorem Within.pure (hR : Keeping R) (a : α) : Within R (Pure.pure a : Op α) := fun s => hR.refl s
theorem Within.throw (hR : Keeping R) (e : Stop) : Within R (MonadExcept.throw e : Op α) := fun s => hR.refl s
theorem Within.raise (hR : Keeping R) (k : ErrKind) : Within R (opRaise k : Op α) := fun s => hR.refl s
theorem Within.modify {h : State → State} (hh : ∀ s, R s (h s)) : Within R (modify h : Op PUnit) := hh

/-- From one state: a sequence is within `R` where its first part is and every second part is. -/
theorem after_bind (hR : Keeping R) {m : Op α} {k : α → Op β} {s : State} (hm : R s (after m s))
    (hk : ∀ a t, m s = .ok a t → R t (after (k a) t)) : R s (after (m >>= k) s) := by
  unfold after at *
  rw [op_run_bind]
  cases h : m s with
  | ok a t =>
    rw [h] at hm
    exact hR.trans _ _ _ hm (hk a t h)
  | error e t =>
    rw [h] at hm
    exact hm

theorem Within.bind (hR : Keeping R) {m : Op α} {k : α → Op β} (hm : Within R m) (hk : ∀ a, Within R (k a)) :
    Within R (m >>= k) := fun s => after_bind hR (hm s) fun a t _ => hk a t

/-- An operation that begins by reading the state. -/
theorem Within.get {k : State → Op β} (h : ∀ s, R s (after (k s) s)) : Within R (get >>= k) := fun s => h s

theorem Within.ite {c : Prop} [Decidable c] {m n : Op α} (hm : c → Within R m) (hn : ¬ c → Within R n) :
    Within R (if c then m else n) := by
  split
  · exact hm ‹_›
  · exact hn ‹_›

/-- A next state of an operation: within `R` of the start, or the raise of a decode error on such a state. -/
theorem runOp_within {m : Op Unit} {s t : State} (h : R s (after m s)) (e : runOp m s = .next t) :
    R s t ∨ ∃ k u, R s u ∧ t = u.raise k := by
  obtain ho | ⟨k, u, ho, rfl⟩ := runOp_eq_next e
  · rw [after_ok ho] at h
    exact .inl h
  · rw [after_error ho] at h
    exact .inr ⟨k, u, h, rfl⟩

end Sys2Proof.Machine
end

