-- ==== Sys2Proof/Tests/Slice0.lean ====
section
/-! SUPPORT. The model's own tests. Expected values come from the spec: the identifiers D1, A1, C1, N1, S1, W1, F1, T3, BC,
SY1 are the rows of 95_test_vectors.md; other tests name the rule they were worked out from. -/

namespace Sys2Proof.Tests

open Sys2Proof.Machine

set_option Elab.async false

/-! ### Helpers -/

/-- The FVM the rows of 95_test_vectors.md section 2.8 start from. -/
def fvm0 : Fvm := { regs := #v[0, 0, 0, 0, 0, 0, 0, 0x40000], flags := 0, ip := 0, mem := [], ops := 0, ended := false }

/-- A byte string stored in `Mem`. -/
def putBytes (f : Fvm) (a : Nat) (bs : List Byte) : Fvm := f.setMem (f.mem.writeRange a bs)

/-- The instruction `i` on the FVM `f` gives the FVM `g f` and touches nothing else. -/
def runs (i : Instr) (f : Fvm) (g : Fvm → Fvm) : Bool :=
  match exec i { State.reset with fvm := f } with
  | .next t => t == { State.reset with fvm := g f }
  | _ => false

/-- A bit string. -/
def bits (l : List Nat) : List Bool := l.map (· == 1)

/-- What a read of a program blob gives on a bit string: the value and the rest. -/
def readOf {α : Type} (m : Pb α) (b : List Bool) : α × List Bool := m b

/-- The machine after power-on with its four arguments written. -/
def hostArgs (method : BitVec 8) (size : Word) (payload hist : List Byte) : State :=
  match State.reset.hostArguments method size payload hist with
  | .ok s => s
  | .error _ => State.reset

/-- A session in its symbol loop: 300 bytes of output produced (zeros), 1000 declared, the payload the given bits closed
with zero bits. -/
def sess (l : List Nat) : State :=
  { hostArgs 3 1000 (packBits ((l.length + 7) / 8) (bits l)) [] with
    ue := .decodingSymbols, swb := ⟨[], 300⟩ }

/-- A session over payload bytes, at bit offset `pos`. -/
def sessBytes (bs : List Byte) (pos : Nat) : State := (hostArgs 3 1000 bs []).seek pos

/-- What `g` sees of the next state; `none` for a stop or a raise. -/
def after {α : Type} (i : Instr) (s : State) (g : State → α) : Option α :=
  match exec i s with
  | .next t => if t.ue = .failed then none else some (g t)
  | _ => none

/-- The error code after a raise, and what `g` sees. -/
def raised {α : Type} (i : Instr) (s : State) (g : State → α) : Option (Nat × α) :=
  match exec i s with
  | .next t => if t.ue = .failed then some (t.host.errKind.toNat, g t) else none
  | _ => none

/-- A table whose symbols all have one code length. -/
def flatTable (l : Nat) (syms : List Nat) : HuffTable :=
  { decodeLen := List.replicate l 0 ++ List.replicate (16 - l) (syms.length * 2 ^ (16 - l))
    decodePos := List.replicate (l + 1) 0 ++ List.replicate (15 - l) syms.length
    decodeNum := syms
    nUsed := syms.length }

/-- The DD, LDD and RD tables of SY1, with a main table for the run of a step: LIT 0x41 and MATCH1, one bit each. -/
def sy1Tables : Tables :=
  { ld := flatTable 1 [65, 272], dd := flatTable 2 [10, 12, 25], ldd := flatTable 2 [5, 14, 15, 16], rd := flatTable 1 [0, 9],
    md := flatTable 1 [19], valid := true }

/-! ### Well-formedness: each check refuses an ill-formed term -/

theorem test_wf_op1_byte_immediate : (Instr.mov true (.imm 256) (.reg 0)).wf = false := by decide
theorem test_wf_op2_byte_immediate : (Instr.add true (.reg 0) (.imm 0x100)).wf = false := by decide
theorem test_wf_one_operand_byte_immediate : (Instr.inc true (.imm 0xFFFFFFFF)).wf = false := by decide
theorem test_wf_word_immediate_passes : (Instr.mov false (.imm 256) (.imm 0xFFFFFFFF)).wf = true := by decide
theorem test_wf_operand_row : (Instr.operandImm true 256).wf = false := by decide
theorem test_wf_vnum01 : (Instr.vnum01 0 5).wf = false := by decide
theorem test_wf_block_length :
    (Instr.ueApply ⟨0, 0, 0x3C001, 0, #v[0, 0, 0, 0, 0, 0, 0], []⟩).wf = false := by decide +kernel
theorem test_wf_user_data :
    (Instr.ueApply ⟨0, 0, 0, 0, #v[0, 0, 0, 0, 0, 0, 0], List.replicate 0x1FC1 0⟩).wf = false := by decide +kernel
theorem test_wf_exec_data : (Instr.fvmExec ⟨0, 0, 2, 0, #v[0, 0, 0, 0, 0, 0, 0], []⟩ [1]).wf = false := by decide +kernel
theorem test_wf_exec_instance :
    (Instr.fvmExec ⟨0, 0, 1, 0, #v[0, 0, 0, 0, 0, 0, 0], List.replicate 0x1FC1 0⟩ [1]).wf = false := by decide +kernel
theorem test_wf_empty_blob : (Instr.fvmCompile []).wf = false := by decide
theorem test_wf_long_blob : (Instr.fvmCompile (List.replicate 0x10000 0)).wf = false := by decide +kernel

/-! ### Decoding: words written out from 30_encoding.md R112 to R117 -/

theorem test_decode_commands_1 : [
  ([0,0,0,0,0,1,0,1,0,0,1,0,1,0,1], .mov false (.reg 2) (.regmem0 5)),
  ([0,0,0,1,1,0,1,0,1,0,1,0,0,1,0,0,0,0,0,0,1], .cmp true (.regmem0 5) (.imm 129)),
  ([0,0,1,0,0,0,1,1,0,0,1,1,0,0,1,0,0,1,0,0,1,0,0,0,0,1,0,0,1,0,0,0,1,1,0,1,0,0], .add false (.regmemB 3 9) (.imm 0x1234)),
  ([0,0,1,1,1,0,1,1,1,0,1,0,0,1,0,0,0,0,0,0,1,1,0,0,1,1,0,0,1,0,0,1], .sub true (.absmem 32) (.regmemB 3 9)),
  ([0,1,0,0,1,0,1,0], .jz (.reg 2)),
  ([0,1,0,1,0,1,0,1,0,1], .jnz (.regmem0 5)),
  ([0,1,1,0,0,0,1,1,0,0,1,1,0,0,1,0,0,1], .inc false (.regmemB 3 9)),
  ([0,1,1,1,1,0,1,1,1,0,1,0,0,1,0,0,0,0,0], .dec true (.absmem 32)),
  ([1,0,0,0,0,0,1,0,1,0], .jmp (.reg 2)),
  ([1,0,0,0,0,1,1,0,1,0,1,0,1,0,1,0,1,0,1], .bxor true (.regmem0 5) (.regmem0 5))
  ].all (fun p : List Nat × Instr =>
    readOf decodeCommand (bits p.1 ++ [true]) == (p.2, [true]) && encode p.2 == some (bits p.1)) = true := by decide +kernel

theorem test_decode_commands_2 : [
  ([1,0,0,0,1,0,0,0,1,1,0,0,1,1,0,0,1,0,0,1,0,0,1,0,0,0,0,1,0,0,1,0,0,0,1,1,0,1,0,0], .band false (.regmemB 3 9) (.imm 0x1234)),
  ([1,0,0,0,1,1,1,0,1,1,1,0,1,0,0,1,0,0,0,0,0,0,0,1,0,0,0,0,0,0,1], .bor true (.absmem 32) (.imm 129)),
  ([1,0,0,1,0,0,0,1,0,1,0,0,1,1,1,0,1,0,0,1,0,0,0,0,0], .test false (.reg 2) (.absmem 32)),
  ([1,0,0,1,0,1,0,1,0,1,0,1], .js (.regmem0 5)),
  ([1,0,0,1,1,0,0,1,1,0,0,1,1,0,0,1,0,0,1], .jns (.regmemB 3 9)),
  ([1,0,0,1,1,1,0,1,1,1,0,1,0,0,1,0,0,0,0,0], .jb (.absmem 32)),
  ([1,0,1,0,0,0,1,0,1,0], .jbe (.reg 2)),
  ([1,0,1,0,0,1,0,1,0,1,0,1], .ja (.regmem0 5)),
  ([1,0,1,0,1,0,0,1,1,0,0,1,1,0,0,1,0,0,1], .jae (.regmemB 3 9)),
  ([1,0,1,0,1,1,0,1,1,1,0,1,0,0,1,0,0,0,0,0], .push (.absmem 32))
  ].all (fun p : List Nat × Instr =>
    readOf decodeCommand (bits p.1 ++ [true]) == (p.2, [true]) && encode p.2 == some (bits p.1)) = true := by decide +kernel

theorem test_decode_commands_3 : [
  ([1,0,1,1,0,0,1,0,1,0], .pop (.reg 2)),
  ([1,0,1,1,0,1,0,1,0,1,0,1], .call (.regmem0 5)),
  ([1,0,1,1,1,0], .ret),
  ([1,0,1,1,1,1,1,0,1,1,1,0,1,0,0,1,0,0,0,0,0], .bnot true (.absmem 32)),
  ([1,1,0,0,0,0,0,1,0,1,0,0,1,0,1,0,1], .shl false (.reg 2) (.regmem0 5)),
  ([1,1,0,0,0,1,1,0,1,0,1,0,1,0,0,1,0,0,0,0,0,0,1], .shr true (.regmem0 5) (.imm 129)),
  ([1,1,0,0,1,0,0,0,1,1,0,0,1,1,0,0,1,0,0,1,0,0,1,0,0,0,0,1,0,0,1,0,0,0,1,1,0,1,0,0], .sar false (.regmemB 3 9) (.imm 0x1234)),
  ([1,1,0,0,1,1,1,0,1,1,1,0,1,0,0,1,0,0,0,0,0], .neg true (.absmem 32)),
  ([1,1,0,1,0,0], .pusha),
  ([1,1,0,1,0,1], .popa)
  ].all (fun p : List Nat × Instr =>
    readOf decodeCommand (bits p.1 ++ [true]) == (p.2, [true]) && encode p.2 == some (bits p.1)) = true := by decide +kernel

theorem test_decode_commands_4 : [
  ([1,1,0,1,1,0], .pushf),
  ([1,1,0,1,1,1], .popf),
  ([1,1,1,0,0,0,1,0,1,0,0,0,1,0,0,0,0,1,0,0,1,0,0,0,1,1,0,1,0,0], .movzx (.reg 2) (.imm 0x1234)),
  ([1,1,1,0,0,1,0,1,0,1,0,1,0,1,0,1,0,1], .movsx (.regmem0 5) (.regmem0 5)),
  ([1,1,1,0,1,0,0,0,1,1,0,0,1,1,0,0,1,0,0,1,0,0,1,0,0,0,0,1,0,0,1,0,0,0,1,1,0,1,0,0], .xchg false (.regmemB 3 9) (.imm 0x1234)),
  ([1,1,1,0,1,1,1,0,1,1,1,0,1,0,0,1,0,0,0,0,0,0,0,1,0,0,0,0,0,0,1], .mul true (.absmem 32) (.imm 129)),
  ([1,1,1,1,0,0,0,1,0,1,0,0,1,1,1,0,1,0,0,1,0,0,0,0,0], .div false (.reg 2) (.absmem 32)),
  ([1,1,1,1,0,1,1,0,1,0,1,0,1,0,0,1,0,0,0,0,0,0,1], .adc true (.regmem0 5) (.imm 129)),
  ([1,1,1,1,1,0,0,0,1,1,0,0,1,1,0,0,1,0,0,1,0,0,1,0,0,0,0,1,0,0,1,0,0,0,1,1,0,1,0,0], .sbb false (.regmemB 3 9) (.imm 0x1234)),
  ([1,1,1,1,1,1], .print)
  ].all (fun p : List Nat × Instr =>
    readOf decodeCommand (bits p.1 ++ [true]) == (p.2, [true]) && encode p.2 == some (bits p.1)) = true := by decide +kernel

/-- 30_encoding.md R101: every symbol above the literals, by its number. -/
theorem test_ld_symbols : [
  (256, Instr.eob), (257, .filt), (258, .repl), (259, .repd0), (260, .repd1), (261, .repd2), (262, .repd3),
  (263, .short0), (264, .short1), (265, .short2), (266, .short3), (267, .short4), (268, .short5), (269, .short6),
  (270, .short7), (271, .match0), (272, .match1), (273, .match2), (274, .match3), (275, .match4), (276, .match5),
  (277, .match6), (278, .match7), (279, .match8), (280, .match9), (281, .match10), (282, .match11), (283, .match12),
  (284, .match13), (285, .match14), (286, .match15), (287, .match16), (288, .match17), (289, .match18), (290, .match19),
  (291, .match20), (292, .match21), (293, .match22), (294, .match23), (295, .match24), (296, .match25), (297, .match26),
  (298, .match27), (0, .lit 0), (65, .lit 0x41), (255, .lit 0xFF)
  ].all (fun p => (match ldInstr p.1 with | .ok i => i == p.2 | _ => false) && ldSymbol p.2 == some p.1) = true := by
  decide +kernel

/-- 30_encoding.md R96 to R98. -/
theorem test_md_symbols : [
  (0, Instr.mdLen 0), (15, .mdLen 15), (16, .mdRepPrev3), (17, .mdRepPrev11), (18, .mdRepZero3), (19, .mdRepZero11)
  ].all (fun p => (match mdInstr p.1 with | .ok i => i == p.2 | _ => false) && mdSymbol p.2 == some p.1) = true := by
  decide +kernel

theorem test_symbols_refused_by_name :
    (match ldInstr 299 with | .error e => e == .noLdSymbol 299 | _ => false) = true ∧
    (match mdInstr 20 with | .error e => e == .noMdSymbol 20 | _ => false) = true := by decide +kernel

/-- 95_test_vectors.md section 2.6: numbers and their bits, the last three not in the shortest form. -/
theorem test_vnum_decode : [
  ([0,0, 0,0,0,0], 0), ([0,0, 1,1,1,1], 15), ([0,1, 0,0,0,1, 0,0,0,0], 16), ([0,1, 1,1,1,1, 1,1,1,1], 255),
  ([0,1, 0,0,0,0, 0,0,0,0,0,0,0,0], 0xFFFFFF00), ([0,1, 0,0,0,0, 1,1,1,1,1,1,1,1], 0xFFFFFFFF),
  ([1,0, 0,0,0,0,0,0,0,1,0,0,0,0,0,0,0,0], 0x100), ([1,0, 1,1,1,1,1,1,1,1,1,1,1,1,1,1,1,1], 0xFFFF),
  ([1,1, 0,0,0,0,0,0,0,0,0,0,0,0,0,0,0,1,0,0,0,0,0,0,0,0,0,0,0,0,0,0,0,0], 0x10000),
  ([1,0, 0,0,0,0,0,0,0,0,0,0,0,0,0,1,0,1], 5), ([0,1, 0,0,0,0, 0,0,0,0,0,1,0,1], 0xFFFFFF05)
  ].all (fun p : List Nat × Word => readOf (decodeVnum pbRead) (bits p.1) == (p.2, [])) = true := by decide +kernel

/-- Each number row's bits (30_encoding.md R112). -/
theorem test_vnum_rows : [
  ([0,0, 1,0,1,1], Instr.vnum00 11), ([0,1, 0,0,1,0, 0,1,1,1], .vnum01 2 7), ([0,1, 0,0,0,0, 1,0,0,0,0,0,0,1], .vnum01h0 0x81),
  ([1,0, 0,0,0,1,0,0,1,0,0,0,1,1,0,1,0,0], .vnum10 0x1234),
  ([1,1, 1,0,0,0,0,0,0,0,0,0,0,0,0,0,0,0,0,0,0,0,0,0,0,0,0,0,0,0,0,0,0,1], .vnum11 0x80000001)
  ].all (fun p : List Nat × Instr => encode p.2 == some (bits p.1) &&
    ((readOf (decodeVnumForm pbRead) (bits p.1)).1).toInstr == p.2) = true := by decide +kernel

/-- Each operand row's bits (30_encoding.md R116, R117). -/
theorem test_operand_rows : [
  ([1, 1,1,0], Instr.operandReg false 6), ([0,0, 1,0,0,0,0,0,0,1], .operandImm true 0x81),
  ([0,0, 0,1,1,0,0,0,0,0,0,1], .operandImm false 0x81), ([0,1,0, 0,1,1], .operandRegmem0 true 3),
  ([0,1,1,0, 1,0,0, 0,0,1,0,0,0], .operandRegmemB false 4 8),
  ([0,1,1,1, 0,1,0,0,0,1,0,0,0,0], .operandAbsmem true 16)
  ].all (fun p : List Nat × Instr => encode p.2 == some (bits p.1) &&
    [false, true].any fun bm => ((readOf (decodeOperand bm) (bits p.1)).1).toInstr bm == p.2) = true := by decide +kernel

/-- 95_test_vectors.md section 2.7: displacement, index and target. -/
theorem test_jump_displacements : [
  (0x100, 5, 0), (0x107, 5, 7), (0x7FFFFFFF, 0, 0x7FFFFEFF), (0xFF, 300, 291), (0x88, 300, 172), (0x88, 0, 0xFFFFFF80),
  (0x87, 5, 132), (0x10, 5, 13), (0xF, 5, 4), (0x8, 5, 0xFFFFFFFD), (0x7, 5, 12), (0, 5, 5), (0xFFFFFFFF, 5, 4),
  (0xFFFFFFFB, 3, 0xFFFFFFFE), (0x80000000, 1, 0x80000001)
  ].all (fun p : Word × Nat × Word => jumpTarget p.2.1 p.1 == p.2.2) = true := by decide +kernel

/-- 30_encoding.md R118: a register operand is not rewritten. -/
theorem test_jump_register_kept : rewriteJump 9 (.jz (.reg 2)) = .jz (.reg 2) := by decide

/-- A table word's opcode bits, first stream bit most significant: RET and INC.B (entry 8). -/
theorem test_table_word :
    decodeTableWord 6 0x2E = some .ret ∧ decodeTableWord 4 0x6 = some (.inc false (.imm 0)) ∧
      decodeTableWord 0 0 = none := by decide +kernel

/-- The next step runs the placed command: RET, with `R[7]` = 0, pops `ip` (44_fvm_program.md R289). -/
theorem test_with_fetch_word :
    (match step (State.reset.withFetchWord 6 0x2E) with | .next t => (t.fvm.reg 7, t.fvm.ip, t.fvm.ops) | _ => (0, 0, 0))
      = (4, 0, 1) := by decide +kernel

/-! ### Operand and number rows as instructions -/

theorem test_operand_values :
    let s := { State.reset with fvm := putBytes (fvm0.setReg 4 0xFFFFFFFE) 0 [0x11, 0x22, 0x33, 0x44, 0x55, 0x66, 0x77] }
    after (.operandReg true 4) s (·.port) = some (.operand none 0xFE) ∧
    after (.operandImm false 0x12345678) s (·.port) = some (.operand none 0x12345678) ∧
    after (.operandRegmem0 true 4) s (·.port) = some (.operand (some 0xFFFFFFFE) 0) ∧
    after (.operandRegmemB false 4 4) s (·.port) = some (.operand (some 2) 0x66554433) ∧
    after (.operandAbsmem true 0x40001) s (·.port) = some (.operand (some 0x40001) 0x22) := by decide +kernel

theorem test_vnum_values :
    after (.vnum00 15) State.reset (·.port) = some (.word 15) ∧ after (.vnum01 1 0) State.reset (·.port) = some (.word 16) ∧
    after (.vnum01h0 5) State.reset (·.port) = some (.word 0xFFFFFF05) ∧
    after (.vnum10 0x100) State.reset (·.port) = some (.word 0x100) ∧
    after (.vnum11 0xFFFFFEFF) State.reset (·.port) = some (.word 0xFFFFFEFF) := by decide +kernel

/-! ### FVM commands: rows of 95_test_vectors.md sections 2.8 to 2.10 -/

theorem test_mov_D4 : runs (.mov true (.regmem0 3) (.reg 0)) (putBytes ((fvm0.setReg 0 0x11223344).setReg 3 0x100)
    0x100 [0xEE, 0xEE]) (fun f => (putBytes f 0x100 [0x44]) |>.setIp 1) = true := by decide +kernel
theorem test_mov_D6 : runs (.mov false (.regmemB 1 0xFFFFFFFC) (.reg 0)) ((fvm0.setReg 0 0xDEADBEEF).setReg 1 2) (fun
    f => (putBytes (putBytes f 0 [0xAD, 0xDE]) 0x3FFFE [0xEF, 0xBE]) |>.setIp 1) = true := by decide +kernel
theorem test_movzx_D10 : runs (.movzx (.reg 0) (.absmem 16)) (putBytes (fvm0.setReg 0 0xFFFFFFFF) 16 [0x80]) (fun f =>
    (f.setReg 0 128) |>.setIp 1) = true := by decide +kernel
theorem test_movsx_D11 : runs (.movsx (.reg 0) (.absmem 16)) (putBytes fvm0 16 [0x80]) (fun f => (f.setReg 0
    0xFFFFFF80) |>.setIp 1) = true := by decide +kernel
theorem test_movsx_D13 : runs (.movsx (.reg 0) (.reg 1)) (fvm0.setReg 1 0x123456F0) (fun f => (f.setReg 0 0xFFFFFFF0)
    |>.setIp 1) = true := by decide +kernel
theorem test_xchg_D15 : runs (.xchg true (.reg 0) (.reg 1)) ((fvm0.setReg 0 0x111111AA).setReg 1 0x222222BB) (fun f =>
    ((f.setReg 0 0x111111BB).setReg 1 0x222222AA) |>.setIp 1) = true := by decide +kernel
theorem test_xchg_D16 : runs (.xchg false (.reg 0) (.regmem0 1)) (putBytes ((fvm0.setReg 0 0x1020304).setReg 1 32) 32
    [0x0A, 0x0B, 0x0C, 0x0D]) (fun f => (putBytes (f.setReg 0 0xD0C0B0A) 32 [0x04, 0x03, 0x02, 0x01]) |>.setIp 1) =
    true := by decide +kernel
theorem test_push_D19 : runs (.push (.reg 7)) fvm0 (fun f => (putBytes (f.setReg 7 0x3FFFC) 0x3FFFC [0xFC, 0xFF, 0x03,
    0x00]) |>.setIp 1) = true := by decide +kernel
theorem test_push_D20 : runs (.push (.regmemB 7 0xFFFFFFF8)) (putBytes (putBytes fvm0 0x3FFF4 [0x09, 0x09, 0x09,
    0x09]) 0x3FFF8 [0x01, 0x02, 0x03, 0x04]) (fun f => (putBytes (f.setReg 7 0x3FFFC) 0x3FFFC [0x01, 0x02, 0x03,
    0x04]) |>.setIp 1) = true := by decide +kernel
theorem test_pop_D23 : runs (.pop (.reg 0)) (putBytes fvm0 0 [0x01, 0x02, 0x03, 0x04]) (fun f => ((f.setReg 0
    0x4030201).setReg 7 0x40004) |>.setIp 1) = true := by decide +kernel
theorem test_pop_D24 : runs (.pop (.reg 7)) (putBytes (fvm0.setReg 7 0x3FFFC) 0x3FFFC [0x00, 0x10, 0x00, 0x00]) (fun f
    => (f.setReg 7 0x1004) |>.setIp 1) = true := by decide +kernel
theorem test_pusha_D26 : runs .pusha (((((((fvm0.setReg 0 16).setReg 1 17).setReg 2 18).setReg 3 19).setReg 4
    20).setReg 5 21).setReg 6 22) (fun f => (putBytes (f.setReg 7 0x3FFE0) 0x3FFE0 [0x00, 0x00, 0x04, 0x00, 0x16,
    0x00, 0x00, 0x00, 0x15, 0x00, 0x00, 0x00, 0x14, 0x00, 0x00, 0x00, 0x13, 0x00, 0x00, 0x00, 0x12, 0x00, 0x00, 0x00,
    0x11, 0x00, 0x00, 0x00, 0x10, 0x00, 0x00, 0x00]) |>.setIp 1) = true := by decide +kernel
theorem test_popa_D27 : runs .popa (putBytes (fvm0.setReg 7 0x3FFE0) 0x3FFE0 [0x00, 0x00, 0x04, 0x00, 0x16, 0x00,
    0x00, 0x00, 0x15, 0x00, 0x00, 0x00, 0x14, 0x00, 0x00, 0x00, 0x13, 0x00, 0x00, 0x00, 0x12, 0x00, 0x00, 0x00, 0x11,
    0x00, 0x00, 0x00, 0x10, 0x00, 0x00, 0x00]) (fun f => ((((((((f.setReg 0 16).setReg 1 17).setReg 2 18).setReg 3
    19).setReg 4 20).setReg 5 21).setReg 6 22).setReg 7 0x40000) |>.setIp 1) = true := by decide +kernel
theorem test_pushf_D28 : runs .pushf (fvm0.setFlags 0x80000001) (fun f => (putBytes (f.setReg 7 0x3FFFC) 0x3FFFC
    [0x01, 0x00, 0x00, 0x80]) |>.setIp 1) = true := by decide +kernel
theorem test_popf_D29 : runs .popf (putBytes (fvm0.setReg 7 0x3FFFC) 0x3FFFC [0x01, 0x00, 0x00, 0x80]) (fun f =>
    ((f.setReg 7 0x40000).setFlags 0x80000001) |>.setIp 1) = true := by decide +kernel
theorem test_popf_D30 : runs .popf (putBytes (fvm0.setReg 7 0x3FFFC) 0x3FFFC [0xFF, 0xFF, 0xFF, 0x7F]) (fun f =>
    ((f.setReg 7 0x40000).setFlags 0x7FFFFFFF) |>.setIp 1) = true := by decide +kernel
theorem test_cmp_A2 : runs (.cmp false (.reg 0) (.imm 6)) (fvm0.setReg 0 5) (fun f => (f.setFlags 0x80000001) |>.setIp
    1) = true := by decide +kernel
theorem test_cmp_A4 : runs (.cmp true (.reg 0) (.reg 1)) ((fvm0.setReg 0 16).setReg 1 32) (fun f => (f.setFlags
    0x80000001) |>.setIp 1) = true := by decide +kernel
theorem test_add_A8 : runs (.add true (.reg 0) (.imm 32)) (fvm0.setReg 0 0x1F0) (fun f => ((f.setReg 0 0x110).setFlags
    1) |>.setIp 1) = true := by decide +kernel
theorem test_add_A12 : runs (.add false (.regmem0 1) (.reg 0)) (putBytes ((fvm0.setReg 0 2).setReg 1 0x100) 0x100
    [0xFF, 0xFF, 0x00, 0x00]) (fun f => (putBytes f 0x100 [0x01, 0x00, 0x01, 0x00]) |>.setIp 1) = true := by
    decide +kernel
theorem test_sub_A14 : runs (.sub false (.reg 0) (.imm 5)) (fvm0.setReg 0 3) (fun f => ((f.setReg 0
    0xFFFFFFFE).setFlags 0x80000001) |>.setIp 1) = true := by decide +kernel
theorem test_sub_A15 : runs (.sub true (.reg 0) (.imm 5)) (fvm0.setReg 0 0x103) (fun f => ((f.setReg 0 0x1FE).setFlags
    0x80000001) |>.setIp 1) = true := by decide +kernel
theorem test_inc_A18 : runs (.inc false (.reg 0)) ((fvm0.setReg 0 0xFFFFFFFF).setFlags 1) (fun f => ((f.setReg 0
    0).setFlags 2) |>.setIp 1) = true := by decide +kernel
theorem test_inc_A21 : runs (.inc true (.reg 0)) ((fvm0.setReg 0 0x17F).setFlags 1) (fun f => ((f.setReg 0
    0x180).setFlags 0) |>.setIp 1) = true := by decide +kernel
theorem test_dec_A24 : runs (.dec false (.reg 0)) (fvm0.setReg 0 0) (fun f => ((f.setReg 0 0xFFFFFFFF).setFlags
    0x80000000) |>.setIp 1) = true := by decide +kernel
theorem test_dec_A25 : runs (.dec true (.reg 0)) (fvm0.setReg 0 0x100) (fun f => ((f.setReg 0 0x1FF).setFlags
    0x80000000) |>.setIp 1) = true := by decide +kernel
theorem test_neg_A29 : runs (.neg false (.reg 0)) ((fvm0.setReg 0 0).setFlags 1) (fun f => (f.setFlags 2) |>.setIp 1)
    = true := by decide +kernel
theorem test_neg_A30 : runs (.neg true (.reg 0)) (fvm0.setReg 0 0x101) (fun f => ((f.setReg 0 0x1FF).setFlags
    0x80000001) |>.setIp 1) = true := by decide +kernel
theorem test_mul_A31 : runs (.mul false (.reg 0) (.reg 0)) ((fvm0.setReg 0 0x10000).setFlags 3) (fun f => ((f.setReg 0
    0).setFlags 3) |>.setIp 1) = true := by decide +kernel
theorem test_mul_A34 : runs (.mul true (.reg 0) (.reg 1)) ((fvm0.setReg 0 0x512).setReg 1 17) (fun f => (f.setReg 0
    0x532) |>.setIp 1) = true := by decide +kernel
theorem test_div_A35 : runs (.div false (.reg 0) (.imm 6)) ((fvm0.setReg 0 43).setFlags 1) (fun f => ((f.setReg 0
    7).setFlags 1) |>.setIp 1) = true := by decide +kernel
theorem test_div_A37 : runs (.div false (.imm 1) (.imm 0)) fvm0 (fun f => f |>.setIp 1) = true := by decide +kernel
theorem test_adc_A42 : runs (.adc false (.reg 0) (.imm 0xFFFFFFFF)) ((fvm0.setReg 0 5).setFlags 1) (fun f =>
    (f.setFlags 1) |>.setIp 1) = true := by decide +kernel
theorem test_adc_A45 : runs (.adc true (.reg 0) (.imm 112)) ((fvm0.setReg 0 16).setFlags 0) (fun f => ((f.setReg 0
    128).setFlags 0) |>.setIp 1) = true := by decide +kernel
theorem test_sbb_A48 : runs (.sbb false (.reg 0) (.imm 0xFFFFFFFF)) ((fvm0.setReg 0 5).setFlags 1) (fun f =>
    (f.setFlags 1) |>.setIp 1) = true := by decide +kernel
theorem test_sbb_A49 : runs (.sbb true (.reg 0) (.imm 5)) ((fvm0.setReg 0 0x103).setFlags 0) (fun f => ((f.setReg 0
    0x1FE).setFlags 1) |>.setIp 1) = true := by decide +kernel
theorem test_bxor_A50 : runs (.bxor false (.reg 0) (.imm 0xFFFFFFFF)) ((fvm0.setReg 0 0xF0F0F0F0).setFlags 1) (fun f
    => ((f.setReg 0 0xF0F0F0F).setFlags 0) |>.setIp 1) = true := by decide +kernel
theorem test_bxor_A52 : runs (.bxor true (.reg 0) (.imm 255)) (fvm0.setReg 0 0xFFFFFF0F) (fun f => ((f.setReg 0
    0xFFFFFFF0).setFlags 0) |>.setIp 1) = true := by decide +kernel
theorem test_band_A53 : runs (.band false (.reg 0) (.imm 0x80000000)) (fvm0.setReg 0 0x80000001) (fun f => ((f.setReg
    0 0x80000000).setFlags 0x80000000) |>.setIp 1) = true := by decide +kernel
theorem test_band_A54 : runs (.band false (.reg 0) (.imm 240)) ((fvm0.setReg 0 15).setFlags 1) (fun f => ((f.setReg 0
    0).setFlags 2) |>.setIp 1) = true := by decide +kernel
theorem test_bor_A55 : runs (.bor false (.reg 0) (.imm 0)) (fvm0.setReg 0 0) (fun f => (f.setFlags 2) |>.setIp 1) =
    true := by decide +kernel
theorem test_bor_A56 : runs (.bor false (.reg 0) (.imm 2)) ((fvm0.setReg 0 1).setFlags 3) (fun f => ((f.setReg 0
    3).setFlags 0) |>.setIp 1) = true := by decide +kernel
theorem test_test_A58 : runs (.test false (.reg 0) (.reg 0)) ((fvm0.setReg 0 0x80000000).setFlags 1) (fun f =>
    (f.setFlags 0x80000000) |>.setIp 1) = true := by decide +kernel
theorem test_test_A59 : runs (.test false (.imm 1) (.imm 1)) (fvm0.setFlags 2) (fun f => (f.setFlags 0) |>.setIp 1) =
    true := by decide +kernel
theorem test_bnot_A60 : runs (.bnot false (.reg 0)) ((fvm0.setReg 0 0xFFFF).setFlags 3) (fun f => ((f.setReg 0
    0xFFFF0000).setFlags 3) |>.setIp 1) = true := by decide +kernel
theorem test_bnot_A61 : runs (.bnot true (.reg 0)) (fvm0.setReg 0 0x12345678) (fun f => (f.setReg 0 0x12345687)
    |>.setIp 1) = true := by decide +kernel
theorem test_shl_A64 : runs (.shl false (.reg 0) (.imm 0)) (fvm0.setReg 0 0x80000001) (fun f => (f.setFlags
    0x80000001) |>.setIp 1) = true := by decide +kernel
theorem test_shl_A66 : runs (.shl false (.reg 0) (.imm 33)) (fvm0.setReg 0 0x80000001) (fun f => ((f.setReg 0
    2).setFlags 1) |>.setIp 1) = true := by decide +kernel
theorem test_shr_A71 : runs (.shr false (.reg 0) (.imm 0)) (fvm0.setReg 0 0x80000000) (fun f => (f.setFlags
    0x80000001) |>.setIp 1) = true := by decide +kernel
theorem test_shr_A73 : runs (.shr false (.reg 0) (.reg 1)) ((fvm0.setReg 0 0x100).setReg 1 36) (fun f => ((f.setReg 0
    16).setFlags 0) |>.setIp 1) = true := by decide +kernel
theorem test_sar_A74 : runs (.sar false (.reg 0) (.imm 4)) (fvm0.setReg 0 0x80000000) (fun f => ((f.setReg 0
    0xF8000000).setFlags 0x80000000) |>.setIp 1) = true := by decide +kernel
theorem test_sar_A77 : runs (.sar true (.reg 0) (.imm 1)) (fvm0.setReg 0 128) (fun f => ((f.setReg 0 64).setFlags 0)
    |>.setIp 1) = true := by decide +kernel
theorem test_jmp_C5 : runs (.jmp (.absmem 0x100)) (putBytes fvm0 0x100 [0x09, 0x00, 0x00, 0x00]) (fun f => f.setIp 9)
    = true := by decide +kernel
theorem test_jmp_C6 : runs (.jmp (.reg 2)) (fvm0.setReg 2 20) (fun f => f.setIp 20) = true := by decide +kernel
theorem test_jz_C8 : runs (.jz (.imm 7)) (fvm0.setFlags 2) (fun f => f.setIp 7) = true := by decide +kernel
theorem test_jz_C9 : runs (.jz (.imm 7)) (fvm0.setFlags 0x80000001) (fun f => f.setIp 1) = true := by decide +kernel
theorem test_jnz_C10 : runs (.jnz (.imm 0)) ((fvm0.setFlags 0).setIp 5) (fun f => f.setIp 0) = true := by
    decide +kernel
theorem test_jnz_C11 : runs (.jnz (.imm 0)) ((fvm0.setFlags 2).setIp 5) (fun f => f.setIp 6) = true := by
    decide +kernel
theorem test_js_C12 : runs (.js (.imm 4)) (fvm0.setFlags 0x80000001) (fun f => f.setIp 4) = true := by decide +kernel
theorem test_js_C13 : runs (.js (.imm 4)) (fvm0.setFlags 3) (fun f => f.setIp 1) = true := by decide +kernel
theorem test_jns_C14 : runs (.jns (.imm 4)) (fvm0.setFlags 0) (fun f => f.setIp 4) = true := by decide +kernel
theorem test_jns_C15 : runs (.jns (.imm 4)) (fvm0.setFlags 0x80000000) (fun f => f.setIp 1) = true := by
    decide +kernel
theorem test_jb_C16 : runs (.jb (.imm 2)) ((fvm0.setFlags 0x80000001).setIp 5) (fun f => f.setIp 2) = true := by
    decide +kernel
theorem test_jb_C17 : runs (.jb (.imm 2)) ((fvm0.setFlags 2).setIp 5) (fun f => f.setIp 6) = true := by decide +kernel
theorem test_jbe_C19 : runs (.jbe (.imm 2)) ((fvm0.setFlags 1).setIp 5) (fun f => f.setIp 2) = true := by
    decide +kernel
theorem test_jbe_C20 : runs (.jbe (.imm 2)) ((fvm0.setFlags 0x80000000).setIp 5) (fun f => f.setIp 6) = true := by
    decide +kernel
theorem test_ja_C22 : runs (.ja (.imm 2)) ((fvm0.setFlags 0x80000000).setIp 5) (fun f => f.setIp 2) = true := by
    decide +kernel
theorem test_ja_C24 : runs (.ja (.imm 2)) ((fvm0.setFlags 0x80000001).setIp 5) (fun f => f.setIp 6) = true := by
    decide +kernel
theorem test_jae_C25 : runs (.jae (.imm 2)) ((fvm0.setFlags 2).setIp 5) (fun f => f.setIp 2) = true := by
    decide +kernel
theorem test_jae_C26 : runs (.jae (.imm 2)) ((fvm0.setFlags 0x80000001).setIp 5) (fun f => f.setIp 6) = true := by
    decide +kernel
theorem test_call_C30 : runs (.call (.reg 7)) (fvm0.setIp 2) (fun f => ((putBytes (f.setReg 7 0x3FFFC) 0x3FFFC [0x03,
    0x00, 0x00, 0x00]).setIp 0x3FFFC) |>.setIp 262140) = true := by decide +kernel
theorem test_call_C31 : runs (.call (.regmemB 7 0xFFFFFFFC)) ((putBytes fvm0 0x3FFFC [0x08, 0x00, 0x00, 0x00]).setIp
    2) (fun f => (putBytes (f.setReg 7 0x3FFFC) 0x3FFFC [0x03, 0x00, 0x00, 0x00]).setIp 3) = true := by decide +kernel
theorem test_ret_C33 : runs .ret ((putBytes (fvm0.setReg 7 0x3FFFC) 0x3FFFC [0x03, 0x00, 0x00, 0x00]).setIp 9) (fun f
    => (f.setReg 7 0x40000).setIp 3) = true := by decide +kernel
theorem test_ret_C34 : runs .ret (fvm0.setIp 3) (fun f => f |>.finish) = true := by decide +kernel
theorem test_print_C39 : runs .print (fvm0.setFlags 3) (fun f => f |>.setIp 1) = true := by decide +kernel

/-! ### STANDARD and the native transforms: 95_test_vectors.md section 2.11 -/

/-- The result of a command on an FVM whose `Mem` starts with `data` (`R[4]` and the size word say how much): position and
bytes. -/
def transformed (i : Instr) (f : Fvm) (data : List Byte) : Option (Word × List Byte) :=
  let n := BitVec.ofNat 32 data.length
  let g := (putBytes f 0 data).setReg 4 n
  after i { State.reset with fvm := g.setMem (memWrite32 g.mem vmSizeWord n) } fun t =>
    (memRead32 t.fvm.mem vmPosWord, extractResult t.fvm.mem)

theorem test_nativeE8_N4 : transformed .nativeE8 (fvm0.setReg 6 0x1000) [0xE8, 0x10, 0, 0, 0, 0x90, 0x90, 0x90] =
    some (0, [0xE8, 0x0F, 0xF0, 0xFF, 0xFF, 0x90, 0x90, 0x90]) := by decide +kernel
theorem test_nativeE8_N5 : transformed .nativeE8 (fvm0.setReg 6 16) [0xE8, 0xFF, 0xFF, 0xFF, 0xFF, 0x90, 0x90, 0x90] =
    some (0, [0xE8, 0xFF, 0xFF, 0xFF, 0, 0x90, 0x90, 0x90]) := by decide +kernel
theorem test_nativeE8E9_N3 : transformed .nativeE8E9 fvm0 [0xE9, 0x10, 0, 0, 0, 0x90, 0x90, 0x90] =
    some (0, [0xE9, 0x0F, 0, 0, 0, 0x90, 0x90, 0x90]) := by decide +kernel
theorem test_nativeItanium_N10 : transformed .nativeItanium (fvm0.setReg 6 80)
    ([0x10, 0, 0, 0, 0, 0, 0, 0, 0, 0, 0, 0, 0x30, 0x12, 0, 0x50] ++ List.replicate 32 0) =
    some (0, [0x10, 0, 0, 0, 0, 0, 0, 0, 0, 0, 0, 0, 0xE0, 0x11, 0, 0x50] ++ List.replicate 32 0) := by decide +kernel
theorem test_nativeDelta_N13 : transformed .nativeDelta (fvm0.setReg 0 2) [1, 1, 1, 0x10, 0x10, 0x10] =
    some (6, [0xFF, 0xF0, 0xFE, 0xE0, 0xFD, 0xD0]) := by decide +kernel
theorem test_nativeRgb_N18 :
    transformed .nativeRgb ((fvm0.setReg 0 6).setReg 1 2) [1, 2, 3, 4, 5, 6, 7, 8, 9, 0xA, 0xB, 0xC] =
    some (12, [0xFF, 0xFB, 0xF4, 0xFD, 0xF2, 0xE7, 0xFA, 0xE8, 0xD8, 0xF6, 0xDC, 0xD6]) := by decide +kernel
theorem test_nativeAudio_N22 : transformed .nativeAudio (fvm0.setReg 0 2) [1, 0x80, 3, 0x7F, 5, 0xFF, 7, 8] =
    some (8, [0xFF, 0xFB, 0x7F, 0xFC, 0x7C, 0xF5, 0xFD, 0xED]) := by decide +kernel
theorem test_nativeUpcase_N26 : transformed .nativeUpcase fvm0 [0x61, 2, 0x62, 0x63] = some (4, [0x61, 0x42, 0x63]) := by
  decide +kernel
theorem test_standard_N14 : transformed (.standard .delta) (fvm0.setReg 0 3) [1, 2, 3, 4, 5, 6] =
    some (6, [0xFF, 0xFD, 0xFB, 0xFD, 0xF9, 0xF5]) := by decide +kernel
theorem test_standard_advances : after (.standard .e8) { State.reset with fvm := fvm0 } (·.fvm.ip) = some 1 := by
  decide +kernel

/-! ### Cursor: 95_test_vectors.md section 2.1 -/

theorem test_bcPeek_zero_fill :
    after (.bcPeek 16) (sessBytes [0xA5, 0x3C, 0xFF] 9) (fun t => (t.port, t.pos)) = some (.word 0x79FE, 9) := by
  decide +kernel
theorem test_bcRead_widest :
    after (.bcRead 32) (sessBytes [0x12, 0x34, 0x56, 0x78, 0x9A] 4) (fun t => (t.port, t.pos)) =
      some (.word 0x82C6A1E5, 36) := by decide +kernel
theorem test_bcRead_truncated :
    raised (.bcRead 16) (sessBytes [0xA5, 0x3C, 0xFF] 9) (fun t => (t.port, t.pos)) = some (1, .none, 9) := by decide +kernel
theorem test_bcAlign :
    after .bcAlign (sessBytes [0xA5, 0x3C, 0xFF] 9) State.pos = some 16 ∧
    after .bcAlign (sessBytes [0xA5, 0x3C, 0xFF] 8) State.pos = some 8 := by decide +kernel
theorem test_bcReadBytes_aligns :
    after (.bcReadBytes 2) (sessBytes [0xA5, 0x3C, 0xFF] 3) (fun t => (t.port, t.pos)) = some (.bytes [0x3C, 0xFF], 24) := by
  decide +kernel
theorem test_bcReadBytes_truncated :
    raised (.bcReadBytes 3) (sessBytes [0xA5, 0x3C, 0xFF] 3) State.pos = some (1, 3) := by decide +kernel

/-! ### Tables: 95_test_vectors.md section 2.2 -/

theorem test_build_H8 : buildTable 8 [3, 3, 3, 3, 3, 2, 4, 4] = some
    { decodeLen := [0, 0, 0x4000, 0xE000] ++ List.replicate 12 0x10000, decodePos := [0, 0, 0, 1, 6] ++ List.replicate 11 8,
      decodeNum := [5, 0, 1, 2, 3, 4, 6, 7], nUsed := 8 } := by decide +kernel
theorem test_build_T1 : buildTable 4 [2, 1, 3, 3] = some
    { decodeLen := [0, 0x8000, 0xC000] ++ List.replicate 13 0x10000, decodePos := [0, 0, 1, 2] ++ List.replicate 12 4,
      decodeNum := [1, 0, 2, 3], nUsed := 4 } ∧ encodeSyms [2, 1, 3, 3] [1, 0, 3, 2] = bits [0, 1,0, 1,1,1, 1,1,0] := by
  decide +kernel
theorem test_htbBuild : after (.htbBuild .ldd ([1, 1] ++ List.replicate 15 0)) State.reset (·.tables.ldd) =
    some (flatTable 1 [0, 1]) := by decide +kernel
theorem test_htbBuild_over_subscribed :
    raised (.htbBuild .ldd ([1, 1, 3, 3] ++ List.replicate 13 0)) State.reset (·.tables.ldd) = some (2, .empty) := by
  decide +kernel
theorem test_sdDecode_S12 :
    (match buildTable 8 [3, 3, 3, 3, 3, 2, 4, 4] with
      | some h => after (.sdDecode .rd) { sessBytes [7] 0 with tables := { sy1Tables with rd := h } } fun t => (t.port, t.pos)
      | none => none) = some (.symbol 6, 4) := by decide +kernel
theorem test_sdDecode_S3 :
    raised (.sdDecode .rd) { sessBytes [1] 0 with tables := { sy1Tables with rd := flatTable 2 [0, 1, 2] } } State.pos = none ∧
    raised (.sdDecode .rd) { sessBytes [1] 0 with tables := { sy1Tables with rd := flatTable 1 [1] } } State.pos =
      some (3, 0) ∧
    raised (.sdDecode .rd) { sessBytes [] 0 with tables := { sy1Tables with rd := flatTable 1 [1] } } State.pos =
      some (1, 0) := by decide +kernel

/-! ### Window: 95_test_vectors.md section 2.3 -/

/-- The session of the rows W1 to W13, with `w` written. -/
def sessW (w : List Byte) : State :=
  { hostArgs 3 8 [] [0x30, 0x31, 0x32, 0x33, 0x34, 0x35, 0x36, 0x37, 0x38, 0x39] with
    swb := ⟨Memory.writeRange [] 0 w, BitVec.ofNat 32 w.length⟩ }

/-- The output written so far. -/
def written (s : State) : List Byte := s.swb.mem.readRange 0 s.swb.wptr.toNat

theorem test_swbCopy_W5 : after (.swbCopy 3 2) (sessW [0x30, 0x31]) written = some [0x30, 0x31, 0x30, 0x31, 0x30] := by
  decide +kernel
theorem test_swbCopy_checks :
    raised (.swbCopy 0 0) (sessW []) written = some (3, []) ∧ raised (.swbCopy 1 13) (sessW [1, 2]) written = some (3, [1, 2]) ∧
    raised (.swbCopy 7 1) (sessW [1, 2]) written = some (3, [1, 2]) ∧
    after (.swbCopy 2 16) (sessW [0x30, 0x31, 0x30, 0x31, 0x30, 0x41]) written =
      some [0x30, 0x31, 0x30, 0x31, 0x30, 0x41, 0x30, 0x31] := by decide +kernel
theorem test_swbPut : after (.swbPut 0x41) (sessW [0x30]) written = some [0x30, 0x41] := by decide +kernel
theorem test_swbPut_full :
    raised (.swbPut 0x42) (sessW [1, 2, 3, 4, 5, 6, 7, 8]) written = some (3, [1, 2, 3, 4, 5, 6, 7, 8]) := by decide +kernel
theorem test_history_cap :
    let s := { sessW [] with cfg := { defaultConfig with histMax := 4 } }
    after (.swbCopy 1 4) s written = some [0x36] ∧ raised (.swbCopy 1 5) s written = some (3, []) := by decide +kernel
theorem test_ringInsert_T3 : after (.ringInsert 3) { State.reset with ring := #v[7, 2, 9, 5] } (·.ring) =
    some #v[3, 7, 2, 9] := by decide +kernel
theorem test_ringSelect_T3 :
    after (.ringSelect 2) { State.reset with ring := #v[3, 7, 2, 9] } (fun t => (t.ring, t.port)) =
      some (#v[2, 3, 7, 9], .word 2) ∧
    after (.ringSelect 3) { State.reset with ring := #v[2, 3, 7, 9] } (fun t => (t.ring, t.port)) =
      some (#v[9, 2, 3, 7], .word 9) := by decide +kernel
theorem test_setLast : after (.setLast 3 2) State.reset (·.last) = some ⟨3, 2⟩ := by decide +kernel

/-! ### Symbols: rows of SY1 in 95_test_vectors.md section 2.5, and 30_encoding.md R102 to R104 -/

/-- What SY1's table shows of a state. -/
def view (t : State) : Word × Vector Word 4 × LastMatch × LowDist × Nat := (t.swb.wptr, t.ring, t.last, t.low, t.pos)

theorem test_lit : after (.lit 0x41) (sess []) (fun t => (t.swb, t.ring)) =
    some (⟨[(300, 0x41)], 301⟩, #v[0, 0, 0, 0]) := by decide +kernel
theorem test_match8_SY1 :
    after .match8 { sess [1, 0,1, 1, 1,1] with tables := sy1Tables, ring := #v[38, 0, 0, 0], low := ⟨5, 0⟩ } view =
      some (312, #v[86, 38, 0, 0], ⟨12, 86⟩, ⟨5, 15⟩, 6) := by decide +kernel
theorem test_match1_SY1 :
    after .match1 { sess [0,1, 0] with tables := sy1Tables, ring := #v[86, 38, 0, 0], low := ⟨5, 15⟩ } view =
      some (304, #v[70, 86, 38, 0], ⟨4, 70⟩, ⟨5, 14⟩, 3) := by decide +kernel
theorem test_match0_SY1_bump :
    let s := { sess [1,0, 1,1,1,1,1,1,1, 1,0] with tables := sy1Tables, swb := ⟨[], 9000⟩ }
    let t := { s with host := { s.host with unpackedSize := 9999 } }
    after .match0 t view = some (9004, #v[8192, 0, 0, 0], ⟨4, 8192⟩, ⟨15, 0⟩, 11) := by decide +kernel
/-- The smallest length of every slot (30_encoding.md R102), with distance 1 (DD symbol 0). -/
theorem test_match_lengths :
    matchRows.map (fun i => after i { sess (List.replicate 8 0) with tables := { sy1Tables with dd := flatTable 1 [0] } }
      (fun t => t.last)) =
    [3, 4, 5, 6, 7, 8, 9, 10, 11, 13, 15, 17, 19, 23, 27, 31, 35, 43, 51, 59, 67, 83, 99, 115, 131, 163, 195, 227].map
      (fun n => some ⟨n, 1⟩) := by decide +kernel
/-- The largest length of every slot (30_encoding.md R102), with distance 2 (DD symbol 1). -/
theorem test_match_longest :
    matchRows.map (fun i => after i { sess (List.replicate 8 1) with tables := { sy1Tables with dd := flatTable 1 [0, 1] } }
      (fun t => t.last)) =
    [3, 4, 5, 6, 7, 8, 9, 10, 12, 14, 16, 18, 22, 26, 30, 34, 42, 50, 58, 66, 82, 98, 114, 130, 162, 194, 226, 258].map
      (fun n => some ⟨n, 2⟩) := by decide +kernel
theorem test_short_distances :
    shortRows.map (fun i => after i (sess (List.replicate 8 1)) (fun t => t.last)) =
      [4, 8, 16, 32, 64, 128, 192, 256].map (fun d => some ⟨2, d⟩) ∧
    shortRows.map (fun i => after i (sess (List.replicate 8 0)) (fun t => t.ring)) =
      [1, 5, 9, 17, 33, 65, 129, 193].map (fun d => some #v[d, 0, 0, 0]) := by decide +kernel
theorem test_repd2_SY1 :
    after .repd2 { sess [1, 1] with tables := sy1Tables, ring := #v[70, 86, 38, 0] } view =
      some (313, #v[38, 70, 86, 0], ⟨13, 38⟩, ⟨0, 0⟩, 2) := by decide +kernel
theorem test_repd3_SY1 :
    after .repd3 { sess [0] with tables := sy1Tables, ring := #v[256, 38, 70, 86] } view =
      some (302, #v[86, 256, 38, 70], ⟨2, 86⟩, ⟨0, 0⟩, 1) := by decide +kernel
theorem test_repd0_repd1 :
    after .repd0 { sess [0] with tables := sy1Tables, ring := #v[7, 8, 9, 10] } (·.ring) = some #v[7, 8, 9, 10] ∧
    after .repd1 { sess [0] with tables := sy1Tables, ring := #v[7, 8, 9, 10] } (·.ring) = some #v[8, 7, 9, 10] := by
  decide +kernel
theorem test_repl : after .repl { sess [] with last := ⟨2, 256⟩ } (fun t => (t.swb.wptr, t.last, t.ring)) =
    some (302, ⟨2, 256⟩, #v[0, 0, 0, 0]) := by decide +kernel
theorem test_repl_after_reset : after .repl (sess []) (·.swb) = some ⟨[], 300⟩ := by decide +kernel
theorem test_eob_new_tables : after .eob (sess [1]) (fun t => (t.ue, t.hdr, t.host.progress, t.pos)) =
    some (.readingTables, .start, 300, 1) := by decide +kernel
theorem test_eob_end_of_file : raised .eob (sess [0, 1]) State.pos = some (3, 2) := by decide +kernel

/-! ### Block header and lengths: 95_test_vectors.md section 2.4 -/

theorem test_blockHeader_B4_B5 :
    raised .blockHeader (sess [1, 1]) State.pos = some (3, 1) ∧ raised .blockHeader (sess [0, 1]) State.pos = some (3, 2) := by
  decide +kernel
/-- TD1: the fifteen escape and the zero run; MD symbols 0, 1 and 19 have lengths 15, 1 and 2. -/
theorem test_blockHeader_TD1 :
    after .blockHeader { sess [0, 0, 1,1,1,1, 0,0,0,0, 0,0,0,1, 1,1,1,1, 1,1,1,1, 0,0,1,0] with low := ⟨5, 14⟩ }
      (fun t => (t.tables.md.decodeNum, t.tables.md.decodeLen.take 3, t.ue, t.hdr, t.low, t.pos)) =
      some ([1, 19, 0], [0, 0x8000, 0xC000], .readingTables, .lengths, ⟨0, 0⟩, 26) := by decide +kernel
theorem test_mdLen : after (.mdLen 7) { sess [] with lens := [1, 2] } (·.lens) = some [1, 2, 7] := by decide +kernel
/-- The 404th length: the four tables are built; here LD has symbols 0 and 298, the others are empty. -/
theorem test_mdLen_last :
    after (.mdLen 0) { sess [] with lens := [1] ++ List.replicate 297 0 ++ [1] ++ List.replicate 104 0, ue := .readingTables }
      (fun t => (t.tables.ld.decodeNum, t.tables.rd.nUsed, t.tables.valid, t.ue, t.lens)) =
      some ([0, 298], 0, true, .decodingSymbols, []) := by decide +kernel
theorem test_md_runs :
    after .mdRepPrev3 { sess [1,0,1] with lens := [4] } (·.lens) = some (List.replicate 9 4) ∧
    after .mdRepPrev11 { sess [0,0,0,0,1,0,0] with lens := [4] } (·.lens) = some (List.replicate 16 4) ∧
    after .mdRepZero3 { sess [0,0,0] with lens := [4] } (·.lens) = some [4, 0, 0, 0] ∧
    after .mdRepZero11 { sess [0,1,1,0,1,1,0] with lens := [] } (·.lens) = some (List.replicate 65 0) := by decide +kernel
theorem test_md_runs_refused :
    raised .mdRepPrev3 (sess [0,0,0]) State.pos = some (2, 3) ∧ raised .mdRepPrev11 (sess [0,0,0,0,0,0,0]) State.pos = some (2, 7) ∧
    raised .mdRepZero3 { sess [0,0,0] with lens := List.replicate 402 1 } State.pos = some (2, 3) ∧
    raised .mdRepZero11 { sess [1,1,1,1,1,1,1] with lens := List.replicate 276 0 } State.pos = some (2, 7) := by
  decide +kernel

/-! ### Filters: 95_test_vectors.md sections 2.6 and 2.12 -/

/-- The registry of the rows F1 to F15: a program that is RET alone, not yet executed again, last length 4. -/
def entry0 : RegEntry := { prog := ⟨[.ret], []⟩, execCount := 0, lastBlockLength := 4 }

/-- The state before the rows F1 to F15, over payload bits. -/
def sessF (l : List Nat) : State := { sess l with registry := [entry0], swb := ⟨[], 10⟩ }

/-- F2: the control byte 0x40 and the record byte 0x30, each a field with its first bit most significant. -/
theorem test_filt_F2 :
    after .filt (sessF [0,1,0,0,0,0,0,0, 0,0,1,1,0,0,0,0]) (fun t => (t.pend, t.registry, t.pos)) =
      some ([⟨0, 271, 4, 1, #v[0, 0, 0, 0x3C000, 4, 1, 0], []⟩], [{ entry0 with execCount := 1 }], 16) := by decide +kernel
/-- F6: index 0 with a registry that is not empty, the two record bytes consumed. -/
theorem test_filt_F6 : raised .filt (sessF ([1,0,0,0,0,0,0,1] ++ List.replicate 16 0)) State.pos = some (3, 24) := by
  decide +kernel
/-- F5: the record bytes 80 01 22 01. -/
theorem test_filterControlByte_F5 :
    after (.filterControlByte 0x13) (sessF [1,0,0,0,0,0,0,0, 0,0,0,0,0,0,0,1, 0,0,1,0,0,0,1,0, 0,0,0,0,0,0,0,1])
      (fun t => (t.pend, t.registry)) =
      some ([⟨0, 10, 4, 1, #v[0, 0, 0, 0x3C000, 2, 9, 0], []⟩], [{ entry0 with execCount := 1 }]) := by decide +kernel
/-- F14: the record bytes 10 00 02 00 define program 1, which is RET alone. -/
theorem test_filterControlByte_F14 :
    after (.filterControlByte 0x83) (sessF [0,0,0,1,0,0,0,0, 0,0,0,0,0,0,0,0, 0,0,0,0,0,0,1,0, 0,0,0,0,0,0,0,0])
      (fun t => (t.pend, t.registry, t.lastFilter)) =
      some ([⟨1, 10, 0, 0, #v[0, 0, 0, 0x3C000, 0, 0, 0], []⟩], [entry0, ⟨⟨[.ret], []⟩, 0, 0⟩], 1) := by decide +kernel

theorem test_crc32 : crc32 [0x31, 0x32, 0x33, 0x34, 0x35, 0x36, 0x37, 0x38, 0x39] = 0xCBF43926 := by decide +kernel
theorem test_fvmCompile_ret : after (.fvmCompile [0]) State.reset (·.port) = some (.program ⟨[.ret], []⟩) := by
  decide +kernel
theorem test_fvmCompile_checksum : raised (.fvmCompile [1, 0]) State.reset (fun _ => ()) = some (3, ()) := by decide +kernel

/-- A program that adds 1 to byte 0 of `Mem` and ends. -/
def entryInc : RegEntry := { prog := ⟨[.inc true (.absmem 0), .ret], []⟩, execCount := 0, lastBlockLength := 2 }

/-- An instance of that program on the range `[0, 2)`. -/
def inst2 : FilterInstance := ⟨0, 0, 2, 0, #v[0, 0, 0, 0x3C000, 2, 0, 0], []⟩

theorem test_fvmExec :
    after (.fvmExec inst2 [0x41, 0x42]) { State.reset with registry := [entryInc] } (fun t => (t.port, t.fvm.ops)) =
      some (.bytes [0x42, 0x42], 2) := by decide +kernel
theorem test_ueApply : after (.ueApply inst2) { sessW [0x41, 0x42, 0x43] with registry := [entryInc], ue := .decodingSymbols }
    (fun t => (written t, t.ue)) = some ([0x42, 0x42, 0x43], .decodingSymbols) := by decide +kernel
theorem test_ueDrain :
    let s := { sessW [0x41, 0x42, 0x43] with registry := [entryInc], ue := .decodingSymbols }
    after .ueDrain { s with pend := [inst2, inst2] } (fun t => (written t, t.pend)) = some ([0x43, 0x42, 0x43], []) ∧
    after .ueDrain { s with pend := [{ inst2 with blockStart := 2 }, inst2] } (fun t => (written t, t.pend)) =
      some ([0x41, 0x42, 0x43], [{ inst2 with blockStart := 2 }, inst2]) := by decide +kernel

/-! ### Steps -/

/-- T6: a stored block, the start and the copy. -/
theorem test_stored_T6 :
    (match runSteps 2 (hostArgs 0 4 [0x41, 0x42, 0x43, 0x44] []).hostStart with
      | .next t => (t.host.status, t.host.progress, t.pos, t.hostReadOut.toOption)
      | _ => (.idle, 0, 0, none)) = (.done, 4, 32, some [0x41, 0x42, 0x43, 0x44]) := by decide +kernel
/-- One step of the symbol loop: the code `0` is LIT 0x41. -/
theorem test_step_lit :
    (match step { sess [0] with tables := sy1Tables } with | .next t => (t.swb.wptr, t.pos) | _ => (0, 0)) = (301, 1) := by
  decide +kernel
/-- METHOD 1 is unsupported, METHOD 2 is left open by the spec (entry 11). -/
theorem test_start_methods :
    (match step (hostArgs 1 4 [] []).hostStart with | .next t => t.host.errKind | _ => 0) = 4 ∧
    (match step (hostArgs 2 4 [] []).hostStart with | .refused r => r == .methodV20 | _ => false) = true := by
  decide +kernel

/-- R445, R444: no host write while a session runs or is asked for, none above `SIZE_MAX`; R447: no `OUT` after the start. -/
theorem test_host_refusals :
    let busy : State := { hostArgs 3 4 [] [] with host := { (hostArgs 3 4 [] []).host with status := .busy } }
    let full : State := { State.reset with host := { State.reset.host with hlen := 0xFFFFFFFF } }
    let done : State := { State.reset with host := { State.reset.host with status := .done, unpackedSize := 1 } }
    let refusal := fun (r : Except Refusal State) => match r with | .error e => some e | .ok _ => none
    refusal (busy.hostArguments 0 1 [7] []) = some .hostBusy ∧ refusal (busy.hostAppendHistory [7]) = some .hostBusy ∧
    refusal (State.reset.hostStart.hostArguments 0 1 [7] []) = some .hostBusy ∧
    refusal (full.hostAppendHistory [7]) = some .aboveSizeMax ∧ refusal (full.hostAppendHistory []) = none ∧
    done.hostReadOut.toOption = some [0] ∧ done.hostStart.hostReadOut.toOption = none := by decide +kernel

/-! ### Witnesses: values that meet the hypotheses of each statement of Certificates/Slice0/Obligations.lean -/

/-- A result as an option. -/
def okOf {ε σ α : Type} (r : EStateM.Result ε σ α) : Option (α × σ) :=
  match r with
  | .ok a t => some (a, t)
  | .error _ _ => none

theorem ok_of {ε σ α : Type} {r : EStateM.Result ε σ α} {a : α} {t : σ} (h : okOf r = some (a, t)) : r = .ok a t := by
  cases r <;> simp_all [okOf]

/-- What `Decode` or another operation raises. -/
def errOf {α : Type} (r : EStateM.Result Stop State α) : Option (Stop × State) :=
  match r with
  | .ok _ _ => none
  | .error e t => some (e, t)

theorem err_of {α : Type} {r : EStateM.Result Stop State α} {e : Stop} {t : State} (h : errOf r = some (e, t)) :
    r = .error e t := by
  cases r <;> simp_all [errOf]

/-- Whether an outcome is a next state. -/
def isNext (o : Host.Outcome State Fault Refusal) : Bool :=
  match o with
  | .next _ => true
  | _ => false

theorem next_of {o : Host.Outcome State Fault Refusal} (h : isNext o = true) : ∃ t, o = .next t := by
  cases o <;> simp_all [isNext]

/-- Whether an outcome is a next state that meets a test. -/
def nextAnd (o : Host.Outcome State Fault Refusal) (p : State → Bool) : Bool :=
  match o with
  | .next t => p t
  | _ => false

theorem next_and {o : Host.Outcome State Fault Refusal} {p : State → Bool} (h : nextAnd o p = true) :
    ∃ t, o = .next t ∧ p t = true := by
  cases o <;> simp_all [nextAnd]

/-- The machine with the FVM `f`. -/
def withFvm (f : Fvm) : State := { State.reset with fvm := f }

theorem witness_MemWriteSetsItsBytesOnly :
    Memory.wf [(5, 1)] = true ∧ (1 = ((0x3FFFF : Word).toNat + 2) % 0x40000) ∧
      ∀ i < 4, 3 ≠ ((0x3FFFF : Word).toNat + i) % 0x40000 := by decide +kernel

theorem witness_OperandAndNumberRows : (1 : BitVec 4) ≠ 0 := by decide

theorem witness_OperandWriteSetsItsTarget :
    (Operand.reg 7 = .reg 7) ∧ isMemForm (.absmem 0xFFFFFFFF) = true ∧ isMemForm (.regmem0 0) = true ∧
      isMemForm (.regmemB 7 1) = true ∧ (Operand.imm 0 = .imm 0) := by decide

theorem witness_MoveAndExchangeResults : isImmForm (.reg 7) = false ∧ isImmForm (.regmemB 0 0xFFFFFFFC) = false := by decide

theorem witness_StackResults : isImmForm (.reg 7) = false := by decide

theorem witness_PopaAfterPushaRestoresRegisters :
    (withFvm fvm0).fvm.mem.wf = true ∧ ∃ t u, exec .pusha (withFvm fvm0) = .next t ∧ exec .popa t = .next u := by
  refine ⟨by decide +kernel, ?_⟩
  obtain ⟨t, h, h'⟩ := next_and (o := exec .pusha (withFvm fvm0)) (p := fun t => isNext (exec .popa t)) (by decide +kernel)
  obtain ⟨u, h'⟩ := next_of h'
  exact ⟨t, u, h, h'⟩

theorem witness_CompareAndLogicResults : isImmForm (.absmem 0) = false := by decide

theorem witness_AddSubIncDecNegResults : isImmForm (.regmem0 7) = false ∧ isImmForm (.reg 0) = false := by decide

theorem witness_MulDivNotShiftResults :
    isImmForm (.reg 0) = false ∧ (withFvm fvm0).fvm.opVal (.imm 0x100) true 0 = 0 ∧
      (withFvm fvm0).fvm.opVal (.imm 0x101) true 0 ≠ 0 := by decide +kernel

/-- A flag writer that changes `FLAGS` (0 - 0 sets Z), and a command that is none. -/
theorem witness_FlagsWordDiscipline :
    (∃ t, (Instr.cmp false (.reg 0) (.reg 0)).isCommand = true ∧
      exec (.cmp false (.reg 0) (.reg 0)) State.reset = .next t ∧ writesFlags (.cmp false (.reg 0) (.reg 0)) = true ∧
      t.fvm.flags ≠ State.reset.fvm.flags) ∧
    ∃ t, Instr.print.isCommand = true ∧ exec .print State.reset = .next t ∧ writesFlags .print = false := by
  obtain ⟨t, h, h'⟩ := next_and (o := exec (.cmp false (.reg 0) (.reg 0)) State.reset)
    (p := fun t => decide (t.fvm.flags ≠ State.reset.fvm.flags)) (by decide +kernel)
  obtain ⟨u, h2⟩ := next_of (o := exec .print State.reset) (by decide +kernel)
  exact ⟨⟨t, rfl, h, rfl, of_decide_eq_true h'⟩, u, rfl, h2, rfl⟩

/-- Both boundary values of `R[7]` at a RET. -/
theorem witness_ControlTransferResults :
    0x40000 ≤ ((withFvm fvm0).fvm.reg 7).toNat ∧ ((withFvm (fvm0.setReg 7 0x3FFFF)).fvm.reg 7).toNat < 0x40000 := by
  decide +kernel

/-- ADD to an immediate; DIV with a divisor that is not 0, and with one that is 0, in byte mode; XCHG with a register. -/
theorem witness_ImmediateDestinationRaises :
    destOf (.add false (.imm 1) (.reg 0)) = some (false, .imm 1) ∧ destOf (.div true (.imm 1) (.imm 1)) = some (true, .imm 1) ∧
      State.reset.fvm.opVal (.imm 1) true (State.reset.fvm.ea (.imm 1)) ≠ 0 ∧ isImmForm (.reg 7) = false ∧
      (Instr.call (.imm 1)) ∈ [Instr.cmp true (.imm 1) (.reg 0), .call (.imm 1)] ∧
      State.reset.fvm.opVal (.imm 0x100) true (State.reset.fvm.ea (.imm 0x100)) = 0 := by decide +kernel

theorem witness_CommandsReachTheFvmOnly : (Instr.standard .rgb).isCommand = true := by decide

/-- Two states that differ in the window and agree in the FVM. -/
theorem witness_CommandsReadTheFvmOnly :
    ∃ t t', Instr.popf.isCommand = true ∧ (withFvm fvm0).fvm = { sess [] with fvm := fvm0 }.fvm ∧
      (withFvm fvm0).cfg.native = { sess [] with fvm := fvm0 }.cfg.native ∧
      exec .popf (withFvm fvm0) = .next t ∧ exec .popf { sess [] with fvm := fvm0 } = .next t' := by
  obtain ⟨t, h⟩ := next_of (o := exec .popf (withFvm fvm0)) (by decide +kernel)
  obtain ⟨t', h'⟩ := next_of (o := exec .popf { sess [] with fvm := fvm0 }) (by decide +kernel)
  exact ⟨t, t', rfl, rfl, rfl, h, h'⟩

/-- A byte-mode register destination, and a word at the top of `Mem`. -/
theorem witness_SingleDestinationFrame :
    (∃ t, destOf (.inc true (.reg 3)) = some (true, .reg 3) ∧ isImmForm (.reg 3) = false ∧
      (withFvm fvm0).fvm.mem.wf = true ∧ exec (.inc true (.reg 3)) (withFvm fvm0) = .next t ∧
      writesFlags (.inc true (.reg 3)) = true) ∧
    ∃ t, destOf (.mov false (.absmem 0x3FFFF) (.reg 7)) = some (false, .absmem 0x3FFFF) ∧
      isMemForm (.absmem 0x3FFFF) = true ∧ exec (.mov false (.absmem 0x3FFFF) (.reg 7)) (withFvm fvm0) = .next t ∧
      writesFlags (.mov false (.absmem 0x3FFFF) (.reg 7)) = false ∧ 3 ∉ touched false ((withFvm fvm0).fvm.ea (.absmem 0x3FFFF)) := by
  obtain ⟨t, h⟩ := next_of (o := exec (.inc true (.reg 3)) (withFvm fvm0)) (by decide +kernel)
  obtain ⟨u, h'⟩ := next_of (o := exec (.mov false (.absmem 0x3FFFF) (.reg 7)) (withFvm fvm0)) (by decide +kernel)
  exact ⟨⟨t, rfl, rfl, by decide +kernel, h, rfl⟩, u, rfl, rfl, h', rfl, by decide +kernel⟩

theorem witness_PushFrame :
    (withFvm fvm0).fvm.mem.wf = true ∧ (∃ t, exec (.push (.reg 7)) (withFvm fvm0) = .next t) ∧
      (∃ t, exec .pushf (withFvm fvm0) = .next t) ∧ ∃ t, exec (.call (.reg 7)) (withFvm fvm0) = .next t :=
  ⟨by decide +kernel, next_of (by decide +kernel), next_of (by decide +kernel), next_of (by decide +kernel)⟩

theorem witness_NativeTransformsWriteMemOnly : State.reset.cfg.native = .default := rfl

/-- The shortest and the longest data that E8 and ITANIUM change, and the next ones; a bundle, a byte of each kind. -/
theorem witness_InPlaceTransformResults :
    let f := fun n : Word => fvm0.setReg 4 n
    (f 0).mem.wf = true ∧ ((f 3).reg 4).toNat < 4 ∧ 0x3C000 ≤ ((f 0x3C000).reg 4).toNat ∧ 4 ≤ ((f 4).reg 4).toNat ∧
    ((f 0x3BFFF).reg 4).toNat < 0x3C000 ∧ ((f 20).reg 4).toNat < 21 ∧ 21 ≤ ((f 21).reg 4).toNat ∧
    16 * 0 + 21 < ((f 22).reg 4).toNat ∧ (∀ i < 3, 127 < 41 * i + 18 ∨ 41 * i + 38 ≤ 127) ∧
    ((f 22).reg 4).toNat ≤ 16 * (16 / 16) + 21 := by decide +kernel

/-- The longest data and the next; the last byte of the last of two channels; bytes outside the result. -/
theorem witness_DeltaAndUpcaseTransformResults :
    let f := fun n : Word => (fvm0.setReg 0 2).setReg 4 n
    (f 0).mem.wf = true ∧ 0x1E000 ≤ ((f 0x1E000).reg 4).toNat ∧ ((f 0x1DFFF).reg 4).toNat < 0x1E000 ∧
    1 < ((f 6).reg 0).toNat ∧ 1 + 2 * ((f 6).reg 0).toNat < ((f 6).reg 4).toNat ∧
    (5 < ((f 6).reg 4).toNat ∧ 5 ∉ touched false 0x3C020 ∧ 5 ∉ touched false 0x3C01C) ∧ 2 * ((f 6).reg 4).toNat ≤ 12 := by
  decide +kernel

/-- RGB on rows as long as the data, its last offset, and each failing guard; AUDIO with 1, 128, 0 and 129 channels. -/
theorem witness_RgbAndAudioTransformResults :
    let f := fun r0 r1 n : Word => ((fvm0.setReg 0 r0).setReg 1 r1).setReg 4 n
    (f 0 0 0).mem.wf = true ∧
    (((f 9 2 6).reg 4).toNat < 0x1E000 ∧ 3 ≤ ((f 9 2 6).reg 4).toNat ∧
      ((f 9 2 6).reg 0 - 3).toNat ≤ ((f 9 2 6).reg 4).toNat ∧ ((f 9 2 6).reg 1).toNat ≤ 2) ∧
    ((f 2 0 6).reg 4).toNat < ((f 2 0 6).reg 0 - 3).toNat ∧ 2 < ((f 9 3 6).reg 1).toNat ∧ ((f 3 0 2).reg 4).toNat < 3 ∧
    0x1E000 ≤ ((f 3 0 0x1E000).reg 4).toNat ∧ 1 ≤ ((f 1 0 6).reg 0).toNat ∧ ((f 128 0 6).reg 0).toNat ≤ 128 ∧
    ((f 0 0 6).reg 0).toNat = 0 ∧ 128 < ((f 129 0 6).reg 0).toNat ∧ 0 + 5 * ((f 1 0 6).reg 0).toNat < ((f 1 0 6).reg 4).toNat ∧
    5 % 32 ≠ 0 ∧ 0 % 32 = 0 := by decide +kernel

/-- Each clause at the boundary values of its range. -/
theorem witness_JumpDisplacementTable :
    2 ^ 17 - 1 < 2 ^ 17 ∧ 256 ≤ (256 : Word).toInt ∧ 256 ≤ (0x7FFFFFFF : Word).toInt ∧
    (136 ≤ (136 : Word).toInt ∧ (255 : Word).toInt ≤ 255) ∧ (16 ≤ (16 : Word).toInt ∧ (135 : Word).toInt ≤ 135) ∧
    (8 ≤ (8 : Word).toInt ∧ (15 : Word).toInt ≤ 15) ∧ (0 ≤ (0 : Word).toInt ∧ (7 : Word).toInt ≤ 7) ∧
    (0xFFFFFFFF : Word).toInt < 0 := by decide +kernel

theorem witness_CommandDecodeEncode :
    let i := Instr.mov true (.regmemB 7 0xFFFFFF00) (.imm 255)
    i.wf = true ∧ i.isEncodable = true ∧ ∃ b, encode i = some b := ⟨by decide, by decide, _, rfl⟩

theorem witness_OperandAndNumberDecodeEncode :
    (Operand.imm 255).wf true = true ∧ (Operand.imm 0xFFFFFFFF).wf false = true ∧ (VnumForm.f01 1 0).wf = true := by decide

/-- A checksum that fails, one that holds, a signature of that blob; blobs that no signature names, with and without static
data; a jump over a register and a command that is no jump. -/
theorem witness_CompileResult :
    let sum := fun l : List Byte => (l.drop 1).foldl (· ^^^ ·) 0
    let bitsOf := fun l : List Byte => (l.drop 1).flatMap fun b => (List.range 8).map b.getLsbD
    ([1, 0] : List Byte).headD 0 ≠ sum [1, 0] ∧ ([0] : List Byte).headD 0 = sum [0] ∧
    (let g : Signature := ⟨.delta, 1, 0xD202EF8D⟩;
      g ∈ [g] ∧ g.codeLen = ([0] : List Byte).length ∧ g.crc = crc32 [0] ∧
        ∀ g' ∈ [g], g'.codeLen = ([0] : List Byte).length ∧ g'.crc = crc32 [0] → g'.kind = g.kind) ∧
    (∀ g ∈ defaultSignatures, ¬ (g.codeLen = ([1, 1] : List Byte).length ∧ g.crc = crc32 [1, 1])) ∧
    (([1, 1] : List Byte).headD 0 = sum [1, 1] ∧ (bitsOf [1, 1]).headD false = true) ∧
    (([2, 2] : List Byte).headD 0 = sum [2, 2] ∧ (bitsOf [2, 2]).headD false = false) ∧
    jumpOperand (.jz (.reg 0)) = some (.reg 0) ∧ jumpOperand .ret = none := by decide +kernel

/-- The last bits and one bit too many; the last byte and one byte too many. -/
theorem witness_BitCursorRows :
    let s := sessBytes [0xA5, 0x3C, 0xFF] 9
    s.pos + (15 : Fin 33).val ≤ s.endPos ∧ s.endPos < s.pos + (16 : Fin 33).val ∧
    s.bc.byte.toNat + (if s.bc.bit = 0 then 0 else 1) + (1 : Word).toNat ≤ s.host.plen.toNat ∧
    s.host.plen.toNat < s.bc.byte.toNat + (if s.bc.bit = 0 then 0 else 1) + (2 : Word).toNat := by decide +kernel

/-- The state with the tables of SY1 over a payload of zeros. -/
def zeros : State := { sess (List.replicate 96 0) with tables := sy1Tables }

/-- Each of the five reads succeeds. -/
theorem witness_FieldReadsMoveTheCursorOnly :
    readExtra 5 zeros = .ok 0 (zeros.seek 5) ∧ decodeSym .ld zeros = .ok 65 (zeros.seek 1) ∧
    bcReadFields 2 zeros = .ok [0, 0] (zeros.seek 16) ∧ readRecordLen 7 zeros = .ok 0 (zeros.seek 16) ∧
    readMetaLengths 20 [] zeros = .ok (List.replicate 20 0) (zeros.seek 80) ∧ zeros.pos ≤ zeros.endPos :=
  ⟨ok_of (by decide +kernel), ok_of (by decide +kernel), ok_of (by decide +kernel), ok_of (by decide +kernel),
    ok_of (by decide +kernel), by decide +kernel⟩

theorem witness_TableBuildSpec :
    buildTable 3 [1, 1, 1] = none ∧ buildTable 3 [2, 2] = none ∧ buildTable 2 [1, 1] = some (flatTable 1 [0, 1]) := by
  decide +kernel

/-- Table MD with two symbols; the sequence 1, 0, 1. -/
theorem witness_HuffmanRoundTrip :
    let len : List (BitVec 4) := 1 :: 1 :: List.replicate 18 0
    let s := { sess [1, 0, 1] with tables := { sy1Tables with md := flatTable 1 [0, 1] } }
    buildTable (tableSize .md) len = some (flatTable 1 [0, 1]) ∧
    (∀ x ∈ [1, 0, 1], x < tableSize .md ∧ len.getD x 0 ≠ 0) ∧ s.tables.select .md = flatTable 1 [0, 1] ∧
    s.pos + (encodeSyms len [1, 0, 1]).length ≤ s.endPos ∧
    ∀ k < (encodeSyms len [1, 0, 1]).length, s.streamBit (s.pos + k) = (encodeSyms len [1, 0, 1]).getD k false := by
  decide +kernel

/-- A build that works and one that fails; a pattern above every code; a code that is cut; a code that is whole. -/
theorem witness_HuffmanRows :
    buildTable (tableSize .md) (1 :: 1 :: List.replicate 18 0) = some (flatTable 1 [0, 1]) ∧
    buildTable (tableSize .md) [1] = none ∧
    (let s := { sessBytes [1] 0 with tables := { sy1Tables with rd := flatTable 1 [5] } };
      ∀ l, 1 ≤ l → l ≤ 15 → (s.tables.select .rd).decodeLen.getD l 0 ≤ s.peekVal 16) ∧
    (let s := { sessBytes [] 0 with tables := { sy1Tables with rd := flatTable 1 [5] } };
      s.peekVal 16 < (s.tables.select .rd).decodeLen.getD 1 0 ∧ s.endPos < s.pos + 1) ∧
    let s := { sessBytes [0] 0 with tables := { sy1Tables with rd := flatTable 2 [5, 6] } }
    let h := s.tables.select .rd
    s.peekVal 16 < h.decodeLen.getD 2 0 ∧ (∀ l, 1 ≤ l → l < 2 → h.decodeLen.getD l 0 ≤ s.peekVal 16) ∧
      s.pos + 2 ≤ s.endPos ∧
      h.decodePos.getD 2 0 + (s.peekVal 16 - h.decodeLen.getD (2 - 1) 0) / 2 ^ (16 - 2) < h.nUsed := by
  refine ⟨by decide +kernel, by decide +kernel, ?_, by decide +kernel, ?_⟩
  · intro s l h h'
    have : ∀ l ≤ 15, 1 ≤ l → (s.tables.select .rd).decodeLen.getD l 0 ≤ s.peekVal 16 := by decide +kernel
    exact this l h' h
  · intro s h
    refine ⟨by decide +kernel, fun l h1 h2 => ?_, by decide +kernel, by decide +kernel⟩
    obtain rfl : l = 1 := by omega
    decide +kernel

/-- The longest legal distance and length, and one beyond each. -/
theorem witness_WindowRows :
    let s := sessW [1, 2, 3, 4, 5, 6]
    let ok := fun (len dist : Word) => dist ≠ 0 ∧ dist.toNat ≤ min s.host.hlen.toNat s.cfg.histMax + s.swb.wptr.toNat ∧
      s.swb.wptr.toNat + len.toNat ≤ s.host.unpackedSize.toNat
    s.swb.wptr ≠ s.host.unpackedSize ∧
    (sessW [1, 2, 3, 4, 5, 6, 7, 8]).swb.wptr = (sessW [1, 2, 3, 4, 5, 6, 7, 8]).host.unpackedSize ∧
    ok 2 16 ∧ ¬ ok 2 17 ∧ ¬ ok 3 16 ∧ ¬ ok 0 0 := by decide +kernel

theorem witness_CopyIsPeriodic :
    (sessW [1, 2, 3]).swb.mem.wf = true ∧ (sessW [1, 2, 3]).copyAllowed 5 13 = true ∧ (sessW [1, 2, 3]).copyAllowed 5 1 = true := by
  decide +kernel

theorem witness_RingRows : State.reset.ring = #v[0, 0, 0, 0] := rfl

/-- A header cut before `rsv`, and before `reuse`; `rsv` = 1; a reuse with and without tables. -/
theorem witness_BlockHeaderResults :
    (sessBytes [] 0).canRead 1 = false ∧
    (let s := sessBytes [0] 7;
      s.canRead 1 = true ∧ s.peekVal 1 = 0 ∧ (s.seek 8).canRead 1 = false) ∧
    (sess [1]).canRead 1 = true ∧ (sess [1]).peekVal 1 = 1 ∧
    ((sess [0, 1]).peekVal 1 = 0 ∧ ((sess [0, 1]).seek 1).canRead 1 = true ∧ ((sess [0, 1]).seek 1).peekVal 1 = 1 ∧
      (sess [0, 1]).tables.valid = false ∧ zeros.tables.valid = true) ∧
    zeros.peekVal 1 = 0 ∧ (zeros.seek 1).peekVal 1 = 0 := by decide +kernel

/-- Table descriptions: runs of 17 and 3 zeros (20 lengths); runs of 17 and 4 (one too many); three lengths 1, which do not
build; a length 15; an escape that is cut. -/
theorem witness_BlockHeaderResults_description :
    (∃ t, MetaRun [] (sess [1,1,1,1, 1,1,1,1, 1,1,1,1, 0,0,0,1]) (.ok (List.replicate 20 0)) t) ∧
    buildTable 20 (List.replicate 20 0) = some .empty ∧
    (∃ t, MetaRun [] (sess [1,1,1,1, 1,1,1,1, 1,1,1,1, 0,0,1,0]) (.error .invalidTable) t) ∧
    (∃ t, MetaRun [] (sess [0,0,0,1, 0,0,0,1, 0,0,0,1, 1,1,1,1, 1,1,1,1]) (.ok ([1, 1, 1] ++ List.replicate 17 0)) t) ∧
    buildTable 20 ([1, 1, 1] ++ List.replicate 17 0) = none ∧
    (∃ t, MetaRun (List.replicate 19 0) (sess [1,1,1,1, 0,0,0,0]) (.ok (List.replicate 19 0 ++ [15])) t) ∧
    ∃ t, MetaRun (List.replicate 19 0) (sessBytes [0xFF] 4) (.error .truncated) t := by
  refine ⟨⟨_, .zeros (z := 15) ?_ ?_ ?_ ?_ ?_ ?_ (.zeros (z := 1) ?_ ?_ ?_ ?_ ?_ ?_ (.done ?_))⟩, ?_,
    ⟨_, .zeros (z := 15) ?_ ?_ ?_ ?_ ?_ ?_ (.tooLong (z := 2) ?_ ?_ ?_ ?_ ?_ ?_)⟩,
    ⟨_, .length ?_ ?_ ?_ (.length ?_ ?_ ?_ (.length ?_ ?_ ?_ (.zeros (z := 15) ?_ ?_ ?_ ?_ ?_ ?_ (.done ?_))))⟩, ?_,
    ⟨_, .fifteen ?_ ?_ ?_ ?_ (.done ?_)⟩, ⟨_, .cutEscape ?_ ?_ ?_ ?_⟩⟩
  all_goals decide +kernel

/-- The last length but one; a run cut; a run with no previous length; a run one too long; a run that fits; a length and a
run that complete the 404 lengths, with four empty tables, and with three codes of one bit in LD. -/
theorem witness_LengthSymbolResultsAndLast :
    (List.replicate 402 (0 : BitVec 4)).length + 1 < 404 ∧
    (Instr.mdRepPrev3, 3, 3, true) ∈ [(Instr.mdRepPrev3, 3, 3, true), (.mdRepPrev11, 7, 11, true),
      (.mdRepZero3, 3, 3, false), (.mdRepZero11, 7, 11, false)] ∧
    (sessBytes [] 0).canRead 3 = false ∧ zeros.canRead 3 = true ∧ zeros.lens = [] ∧
    404 < ({ zeros with lens := List.replicate 402 0 } : State).lens.length + (zeros.peekVal 3 + 3) ∧
    ({ zeros with lens := List.replicate 400 0 } : State).lens.length + (zeros.peekVal 3 + 3) < 404 ∧
    (let s := { zeros with lens := List.replicate 401 0 };
    s.lens ≠ [] ∧ s.lens.length + (zeros.peekVal 3 + 3) = 404 ∧
      s.lens ++ List.replicate (zeros.peekVal 3 + 3) (s.lens.getLastD 0) = List.replicate 403 0 ++ [0]) ∧
    (let lens : List (BitVec 4) := List.replicate 403 0 ++ [0];
    (List.replicate 403 (0 : BitVec 4)).length + 1 = 404 ∧ buildTable 299 (lens.take 299) = some .empty ∧
      buildTable 60 ((lens.drop 299).take 60) = some .empty ∧ buildTable 17 ((lens.drop 359).take 17) = some .empty ∧
      buildTable 28 (lens.drop 376) = some .empty) ∧
    buildTable 299 (([1, 1, 1] ++ List.replicate 401 0).take 299) = none := by decide +kernel

theorem witness_LitReplEobShortResults :
    zeros.swb.wptr ≠ zeros.host.unpackedSize ∧ zeros.last.len = 0 ∧
    (let s := { zeros with last := ⟨700, 300⟩ };
      s.last.len ≠ 0 ∧ s.copyAllowed s.last.len s.last.dist = true) ∧
    (sess [1]).canRead 1 = true ∧ (sess [1]).peekVal 1 = 1 ∧
    (zeros.canRead 1 = true ∧ zeros.peekVal 1 = 0 ∧ (zeros.seek 1).canRead 1 = true ∧ zeros.pend = []) ∧
    shortRows[0]? = some .short0 ∧ shortRows[7]? = some .short7 ∧ zeros.canRead (sdbits 7) = true ∧
    zeros.copyAllowed 2 (BitVec.ofNat 32 (sdbase 7 + 1 + zeros.peekVal (sdbits 7))) = true ∧
    ({ zeros with swb := ⟨[], 192⟩ } : State).copyAllowed 2 (BitVec.ofNat 32 (sdbase 7 + 1 + zeros.peekVal (sdbits 7))) = false := by
  decide +kernel

theorem witness_RepeatDistanceResults :
    let s := { zeros with ring := #v[70, 86, 38, 0] }
    let s1 := { s with ring := #v[38, 70, 86, 0] }
    repdRows[(2 : Fin 4).val]? = some .repd2 ∧
    decodeSym .rd { s with ring := selectRing s.ring 2 } = .ok 0 (s1.seek 1) ∧ readExtra (lbits 0) (s1.seek 1) = .ok 0 (s1.seek 1) ∧
    (s1.seek 1).copyAllowed 2 38 = true ∧
    -- entry 3 of the ring is 0: no copy
    repdRows[(3 : Fin 4).val]? = some .repd3 ∧
    decodeSym .rd { s with ring := selectRing s.ring 3 } = .ok 0 ({ s with ring := #v[0, 70, 86, 38] }.seek 1) ∧
    (s1.seek 1).copyAllowed 2 0 = false :=
  ⟨by decide, ok_of (by decide +kernel), ok_of (by decide +kernel), by decide +kernel, by decide, ok_of (by decide +kernel),
    by decide +kernel⟩

/-- MATCH0 with DD symbol 10 and LDD symbol 5: distance 38, allowed after 300 bytes and not after 37. -/
theorem witness_MatchResults :
    let s2 := { zeros.seek 4 with low := ⟨5, 0⟩ }
    matchRows[0]? = some .match0 ∧ matchRows[27]? = some .match27 ∧ readExtra (lbits 0) zeros = .ok 0 zeros ∧
    decodeSym .dd zeros = .ok 10 (zeros.seek 2) ∧ readDistance 10 (zeros.seek 2) = .ok 38 s2 ∧
    s2.copyAllowed 3 38 = true ∧ ({ s2 with swb := ⟨[], 37⟩ } : State).copyAllowed 3 38 = false :=
  ⟨by decide, by decide, ok_of (by decide +kernel), ok_of (by decide +kernel), ok_of (by decide +kernel), by decide +kernel,
    by decide +kernel⟩

/-- Slots with 0, 1, 3, 4 and 18 extra bits; a repeated low part; LDD symbols 16 and 5. -/
theorem witness_DistanceFields :
    dbits 0 = 0 ∧ dbits 4 = 1 ∧ dbits 9 = 3 ∧ zeros.canRead (dbits 9) = true ∧ 4 ≤ dbits 10 ∧ 4 ≤ dbits 59 ∧
    readExtra (dbits 10 - 4) zeros = .ok 0 zeros ∧ zeros.low.rep = 0 ∧
    ({ zeros with low := ⟨5, 15⟩ } : State).low.rep ≠ 0 ∧ decodeSym .ldd zeros = .ok 5 (zeros.seek 2) ∧
    let s := { sess [1, 1] with tables := sy1Tables }
    readExtra (dbits 10 - 4) s = .ok 0 s ∧ decodeSym .ldd s = .ok 16 (s.seek 2) :=
  ⟨by decide, by decide, by decide, by decide +kernel, by decide, by decide, ok_of (by decide +kernel), by decide +kernel,
    by decide +kernel, ok_of (by decide +kernel), ok_of (by decide +kernel), ok_of (by decide +kernel)⟩

/-- F1: the record of one zero byte, for program 0. F14: one that defines program 1. F6: an index of 0 does not parse, read by
FILT as well. Record lengths 1, 6, 7 and the 16-bit form. -/
theorem witness_FilterSymbolAndRecordLength :
    let s := sessF (List.replicate 16 0)
    let r : ParsedRecord := ⟨none, ⟨0, 10, 4, 1, #v[0, 0, 0, 0x3C000, 4, 1, 0], []⟩⟩
    (s.canRead 8 = true ∧ s.peekVal 8 = (0 : Byte).toNat ∧ s.seek (s.pos + 8) = s.seek 8) ∧
    readRecordLen 0 (s.seek 8) = .ok 1 (s.seek 8) ∧ bcReadFields 1 (s.seek 8) = .ok [0] (s.seek 16) ∧
    (∃ rest, parseRecord (s.seek 16) 0 (bytesBits [0]) = some (r, rest)) ∧
    (∃ rest, parseRecord (s.seek 16) 0x83 (bytesBits [0x10, 0, 2, 0]) =
      some (⟨some ⟨[.ret], []⟩, ⟨1, 10, 0, 0, #v[0, 0, 0, 0x3C000, 0, 0, 0], []⟩⟩, rest)) ∧
    (readRecordLen 0x81 s = .ok 2 s ∧ bcReadFields 2 s = .ok [0, 0] (s.seek 16) ∧
      parseRecord (s.seek 16) 0x81 (bytesBits [0, 0]) = none) ∧
    (let s0 := sessF [1,0,0,0,0,0,0,1, 0,0,0,0,0,0,0,0, 0,0,0,0,0,0,0,0];
      s0.canRead 8 = true ∧ s0.peekVal 8 = (0x81 : Byte).toNat) ∧
    (((5 : Byte) &&& 7).toNat + 1 ≤ 6 ∧ ((6 : Byte) &&& 7).toNat + 1 = 7 ∧ ((7 : Byte) &&& 7).toNat + 1 = 8 ∧
      s.canRead 16 = true) := by
  refine ⟨by decide +kernel, ok_of (by decide +kernel), ok_of (by decide +kernel), ⟨[false, false], ?_⟩,
    ⟨List.replicate 6 false, ?_⟩, ⟨ok_of (by decide +kernel), ok_of (by decide +kernel), ?_⟩, by decide +kernel,
    by decide +kernel⟩
  all_goals decide +kernel

/-- A record for program 0 (F1), and one that defines program 1 (F14). -/
theorem witness_ParsedRecordIsLegal :
    let s := sessF []
    (∃ rest, parseRecord s 0 (bytesBits [0]) =
      some (⟨none, ⟨0, 10, 4, 1, #v[0, 0, 0, 0x3C000, 4, 1, 0], []⟩⟩, rest)) ∧
    ∃ rest, parseRecord s 0x83 (bytesBits [0x10, 0, 2, 0]) =
      some (⟨some ⟨[.ret], []⟩, ⟨1, 10, 0, 0, #v[0, 0, 0, 0x3C000, 0, 0, 0], []⟩⟩, rest) := by
  refine ⟨⟨[false, false], ?_⟩, ⟨List.replicate 6 false, ?_⟩⟩
  all_goals decide +kernel

theorem witness_ExecutionStartAndResult :
    inst2.wf = true ∧ ([0x41, 0x42] : List Byte).length = inst2.blockLength.toNat ∧
    (let m := memWrite32 (memWrite32 [] vmPosWord 0x3FFFE) vmSizeWord 1;
      (memRead32 m 0x3C020 &&& 0x3FFFF).toNat + (memRead32 m 0x3C01C &&& 0x3FFFF).toNat < 0x40000) ∧
    let m := memWrite32 (memWrite32 [] vmPosWord 0x3FFFE) vmSizeWord 2
    0x40000 ≤ (memRead32 m 0x3C020 &&& 0x3FFFF).toNat + (memRead32 m 0x3C01C &&& 0x3FFFF).toNat := by decide +kernel

/-- The symbol loop with the program of `entryInc` and three bytes produced. -/
def sessA : State := { sessW [0x41, 0x42, 0x43] with registry := [entryInc], ue := .decodingSymbols, pend := [inst2] }

/-- The FVM after that program's run on the two bytes. -/
def fvmA : Fvm :=
  { loadFvm entryInc.prog inst2 [0x41, 0x42] with
    mem := (loadFvm entryInc.prog inst2 [0x41, 0x42]).mem.write 0 0x42, ip := 1, ops := 2, ended := true }

theorem witness_ApplyAndDrainResults :
    let start := { sessA with ret := sessA.ue, ue := .applyFilter, fvm := loadFvm entryInc.prog inst2 (sessA.blockBytes inst2) }
    let u := { start with fvm := fvmA }
    sessA.registry[inst2.prog]? = some entryInc ∧ sessA.ready inst2 = true ∧
    fvmRun entryInc.prog sessA.cfg.fvmMaxOps start = .ok () u ∧ (extractResult u.fvm.mem).length = inst2.blockLength.toNat ∧
    State.reset.pend = [] ∧ sessA.pend = [inst2] ∧ ({ sessA with swb := ⟨[], 1⟩ } : State).ready inst2 = false ∧
    ∃ t, exec (.ueApply inst2) sessA = .next t ∧ decide (t.ue ≠ .failed) = true :=
  ⟨by decide +kernel, by decide +kernel, ok_of (by decide +kernel), by decide +kernel, rfl, rfl, by decide +kernel,
    next_and (p := fun t => decide (t.ue ≠ .failed)) (by decide +kernel)⟩

/-- A program that doubles its size word: the result has another length. -/
theorem witness_ApplyAndDrainResults_wrong_length :
    let e : RegEntry := ⟨⟨[.add false (.absmem 0x3C01C) (.absmem 0x3C01C), .ret], []⟩, 0, 0⟩
    let s := { sessA with registry := [e] }
    let start := { s with ret := s.ue, ue := .applyFilter, fvm := loadFvm e.prog inst2 (s.blockBytes inst2) }
    ∃ u, fvmRun e.prog s.cfg.fvmMaxOps start = .ok () u ∧ (extractResult u.fvm.mem).length ≠ inst2.blockLength.toNat := by
  intro e s start
  have h : (okOf (fvmRun e.prog s.cfg.fvmMaxOps start)).any
      (fun p => decide ((extractResult p.2.fvm.mem).length ≠ inst2.blockLength.toNat)) = true := by decide +kernel
  obtain ⟨⟨⟨⟩, u⟩, hu, hl⟩ := (Option.any_eq_true _ _).mp h
  exact ⟨u, ok_of hu, of_decide_eq_true hl⟩

/-- A blob that compiles and one that does not; a run that ends and one that raises. -/
theorem witness_CompileAndExecRows :
    let e : RegEntry := ⟨⟨[.mov false (.imm 0) (.reg 0), .ret], []⟩, 0, 0⟩
    let s := { State.reset with registry := [e] }
    compileBlob State.reset.cfg.signatures [0] = some ⟨[.ret], []⟩ ∧ compileBlob State.reset.cfg.signatures [1, 0] = none ∧
    sessA.registry[inst2.prog]? = some entryInc ∧
    fvmRun entryInc.prog sessA.cfg.fvmMaxOps { sessA with fvm := loadFvm entryInc.prog inst2 [0x41, 0x42] } =
      .ok () { sessA with fvm := fvmA } ∧
    s.registry[inst2.prog]? = some e ∧
    fvmRun e.prog s.cfg.fvmMaxOps { s with fvm := loadFvm e.prog inst2 [] } =
      .error (.raise .corruptStream) { s with fvm := (loadFvm e.prog inst2 []).countOp } :=
  ⟨by decide +kernel, by decide +kernel, by decide +kernel, ok_of (by decide +kernel), rfl, err_of (by decide +kernel)⟩

/-- A running filter at its first command, at the ceiling, at its end, and with a result of another length. -/
def running : State := { sessA with ue := .applyFilter, ret := .decodingSymbols, fvm := loadFvm entryInc.prog inst2 [0x41, 0x42] }

theorem witness_StepRunsTheCommandAtIp :
    running.host.ctrlStart = false ∧ running.ue = .applyFilter ∧ running.running = some (inst2, entryInc.prog) ∧
    running.fvm.ended = false ∧ entryInc.prog.cmds[running.fvm.ip.toNat]? = some (.inc true (.absmem 0)) ∧
    running.fvm.ops < running.cfg.fvmMaxOps ∧ (Instr.inc true (.absmem 0)).isCommand = true ∧
    (let s := { running with cfg := { defaultConfig with fvmMaxOps := 0 } };
      s.cfg.fvmMaxOps ≤ s.fvm.ops) ∧
    (let s := { running with fvm := { running.fvm with ip := 2 } };
      entryInc.prog.cmds.length ≤ s.fvm.ip.toNat ∧ (extractResult s.fvm.mem).length = inst2.blockLength.toNat) ∧
    let s := { running with fvm := { running.fvm with ended := true, mem := [] } }
    s.fvm.ended = true ∧ (extractResult s.fvm.mem).length ≠ inst2.blockLength.toNat := by decide +kernel

/-- Each clause: a whole symbol, a cut one, a header, a length symbol, a complete output, a pending filter. -/
theorem witness_StepRunsTheDecodedSymbol :
    let cut := { sess [] with tables := sy1Tables }
    zeros.host.ctrlStart = false ∧ zeros.ue = .decodingSymbols ∧ (∀ i ∈ zeros.pend.head?, zeros.ready i = false) ∧
    zeros.swb.wptr ≠ zeros.host.unpackedSize ∧ decodeSym .ld zeros = .ok 65 (zeros.seek 1) ∧ ldInstr 65 = .ok (.lit 0x41) ∧
    decodeSym .ld cut = .error (.raise .truncated) cut ∧
    (let s := { zeros with ue := .readingTables };
      s.hdr = .start ∧ (∀ i ∈ s.pend.head?, s.ready i = false) ∧ s.swb.wptr ≠ s.host.unpackedSize) ∧
    (let s := { zeros with ue := .readingTables, hdr := .lengths };
      decodeSym .md s = .ok 19 (s.seek 1) ∧ mdInstr 19 = .ok .mdRepZero11) ∧
    (let s := { zeros with swb := ⟨[], 1000⟩ };
      s.swb.wptr = s.host.unpackedSize) ∧
    sessA.pend = [inst2] ∧ sessA.ready inst2 = true ∧ sessA.registry[inst2.prog]? = some entryInc :=
  ⟨by decide +kernel, rfl, by decide +kernel, by decide +kernel, ok_of (by decide +kernel), rfl, err_of (by decide +kernel),
    by decide +kernel, ⟨ok_of (by decide +kernel), rfl⟩, by decide +kernel, rfl, by decide +kernel, by decide +kernel⟩

/-- A start while BUSY, and one of each method. -/
theorem witness_SessionStart :
    let s := fun m => (hostArgs m 4 [] []).hostStart
    (s 0).host.ctrlStart = true ∧ ({ s 0 with host := { (s 0).host with status := .busy } } : State).host.status = .busy ∧
    (s 0).host.status ≠ .busy ∧ (s 0).host.method = 0 ∧ (s 3).host.method = 3 ∧ (s 2).host.method = 2 ∧
    (s 1).host.method = 1 ∧ 4 ≤ (s 4).host.method.toNat ∧ 4 ≤ (s 255).host.method.toNat := by decide +kernel

/-- A payload exactly as long as the output, and one a byte shorter. -/
theorem witness_StoredCopiesThePayload :
    let s := { hostArgs 0 2 [7, 8] [] with ue := .stored }
    let s' := { hostArgs 0 2 [7] [] with ue := .stored }
    s.host.ctrlStart = false ∧ s.ue = .stored ∧ s.bc = ⟨0, 0⟩ ∧ s.swb.mem = [] ∧
    s.host.unpackedSize.toNat ≤ s.host.plen.toNat ∧ s'.host.plen.toNat < s'.host.unpackedSize.toNat := by decide +kernel

/-- A running filter, status BUSY, its next command a RET. -/
def placed : State := State.reset.withFetchWord 6 0x2E

/-- The placed command meets every invariant and steps; so does one at the last count below the ceiling. -/
theorem witness_StepKeepsInvariant :
    (placed.Inv ∧ placed.MemoriesWf ∧ placed.CursorOk ∧ placed.WindowOk ∧ placed.MemInSpace) ∧ (∃ t, step placed = .next t) ∧
    let s := { placed with fvm := { placed.fvm with ops := 24999999 } }
    s.OpsOk ∧ ∃ t, step s = .next t :=
  ⟨by decide +kernel, next_of (by decide +kernel), by decide +kernel, next_of (by decide +kernel)⟩

theorem witness_StepKeepsArguments : ∃ t, step zeros = .next t := next_of (by decide +kernel)

theorem witness_StepKeepsMemoriesCanonical : zeros.MemoriesWf ∧ ∃ t, step zeros = .next t :=
  ⟨by decide +kernel, next_of (by decide +kernel)⟩

theorem witness_StepKeepsCursorsInBounds : (zeros.CursorOk ∧ zeros.WindowOk) ∧ ∃ t, step zeros = .next t :=
  ⟨by decide +kernel, next_of (by decide +kernel)⟩

theorem witness_StepKeepsMemInSpace : running.MemInSpace ∧ ∃ t, step running = .next t :=
  ⟨by decide +kernel, next_of (by decide +kernel)⟩

theorem witness_InvariantStepNeverFaults : placed.Inv := by decide +kernel

/-- A ready head of the queue: its Apply succeeds; that of a program that writes an immediate raises. -/
theorem witness_ApplyIsItsSteps :
    sessA.host.ctrlStart = false ∧ sessA.pend = [inst2] ∧ sessA.ready inst2 = true ∧ sessA.ue = .decodingSymbols ∧
    (∃ t, applyInstance inst2 sessA = .ok () t) ∧
    let s := { sessA with registry := [⟨⟨[.mov false (.imm 0) (.reg 0), .ret], []⟩, 0, 0⟩] }
    ∃ e t, applyInstance inst2 s = .error (.raise e) t := by
  refine ⟨rfl, rfl, by decide +kernel, rfl, ?_, ?_⟩
  · have h : (okOf (applyInstance inst2 sessA)).isSome = true := by decide +kernel
    obtain ⟨⟨⟨⟩, t⟩, ht⟩ := Option.isSome_iff_exists.mp h
    exact ⟨t, ok_of ht⟩
  · intro s
    have h : (errOf (applyInstance inst2 s)).any (fun p => decide (p.1 = .raise .corruptStream)) = true := by decide +kernel
    obtain ⟨⟨e, t⟩, ht, he⟩ := (Option.any_eq_true _ _).mp h
    obtain rfl : e = .raise .corruptStream := of_decide_eq_true he
    exact ⟨_, t, err_of ht⟩

theorem witness_ExecutionIsBounded : entryInc.prog.cmds.all Instr.isCommand = true := by decide

/-- Done; not done; done with a start pending; busy; idle with a payload of `SIZE_MAX` bytes and one more, and a history at
`SIZE_MAX`. -/
theorem witness_HostReadsAndWritesAreGuarded :
    let h := State.reset.host
    ({ h with status := .done }.status = .done ∧ { h with status := .done }.ctrlStart = false) ∧ h.status ≠ .done ∧
    State.reset.hostStart.host.ctrlStart = true ∧ { h with status := .busy }.status = .busy ∧
    ¬ (h.ctrlStart = true ∨ h.status = .busy) ∧ 0xFFFFFFFF < (List.replicate 0x100000000 (0 : Byte)).length ∧
    (List.replicate 0xFFFFFFFF (0 : Byte)).length ≤ 0xFFFFFFFF ∧ h.hist.wf = true ∧
    (0xFFFFFFFF : Word).toNat + ([0] : List Byte).length > 0xFFFFFFFF ∧
    (0xFFFFFFFE : Word).toNat + ([0] : List Byte).length ≤ 0xFFFFFFFF := by
  refine ⟨by decide, by decide, rfl, rfl, by decide, ?_, ?_, by decide, by decide, by decide⟩
  · rw [List.length_replicate]; decide
  · rw [List.length_replicate]

end Sys2Proof.Tests
end

section
/-! What a command does to the FVM, as a calculus: a relation between the FVM before and after that every building block
keeps is kept by every command. -/

namespace Sys2Proof.Machine

variable {α β : Type} {Q : Fvm → Fvm → Prop}

/-- The FVM an operation leaves, whether it finishes or raises. -/
def fvmAfter (m : FvmOp α) (f : Fvm) : Fvm :=
  match m f with
  | .ok _ g => g
  | .error _ g => g

/-- Every run of `m` stays within `Q`. -/
def FvmWithin (Q : Fvm → Fvm → Prop) (m : FvmOp α) : Prop := ∀ f, Q f (fvmAfter m f)

/-- A relation that every building block of a command keeps, the writes of `FLAGS` aside. -/
structure FvmStable (Q : Fvm → Fvm → Prop) : Prop where
  refl : ∀ f, Q f f
  trans : ∀ f g h, Q f g → Q g h → Q f h
  store : ∀ f op bm ea v, Q f (f.store op bm ea v)
  putWord : ∀ f a v, Q f (f.setMem (memWrite32 f.mem a v))
  pusha : ∀ f sp, Q f (f.setMem (pushaMem f sp f.mem))
  regs : ∀ (f : Fvm) rs, Q f { f with regs := rs }
  setIp : ∀ f v, Q f (f.setIp v)
  finish : ∀ f, Q f f.finish
  native : ∀ c k f, Q f (nativeApply c k f)

theorem fvmAfter_ok {m : FvmOp α} {f g : Fvm} {a : α} (h : m f = .ok a g) : fvmAfter m f = g := by simp [fvmAfter, h]
theorem fvmAfter_error {m : FvmOp α} {f g : Fvm} {e : ErrKind} (h : m f = .error e g) : fvmAfter m f = g := by
  simp [fvmAfter, h]

/-- A lifted FVM operation changes the FVM alone. -/
theorem after_liftFvm (m : FvmOp α) (s : State) : after (liftFvm m) s = { s with fvm := fvmAfter m s.fvm } := by
  obtain ⟨a, f, hm, h⟩ | ⟨k, f, hm, h⟩ := liftFvm_cases m s
  · rw [after_ok h, fvmAfter_ok hm]
  · rw [after_error h, fvmAfter_error hm]

namespace FvmStable
variable (hQ : FvmStable Q) {bm : Bool} {a b op : Operand}
include hQ

theorem bind {m : FvmOp α} {k : α → FvmOp β} (hm : FvmWithin Q m) (hk : ∀ x, FvmWithin Q (k x)) :
    FvmWithin Q (m >>= k) := by
  intro f
  have hf := hm f
  unfold fvmAfter at hf ⊢
  rw [fvm_run_bind]
  cases h : m f with
  | ok x g =>
    rw [h] at hf
    exact hQ.trans _ _ _ hf (hk x g)
  | error e g =>
    rw [h] at hf
    exact hf

theorem get : FvmWithin Q (get : FvmOp Fvm) := fun f => hQ.refl f
theorem eaOf : FvmWithin Q (eaOf op) := fun f => hQ.refl f
theorem opRead {ea : Word} : FvmWithin Q (opRead op bm ea) := fun f => hQ.refl f
theorem advanceIp : FvmWithin Q advanceIp := fun f => hQ.setIp f _
theorem putReg (r : Fin 8) (v : Word) : FvmWithin Q (putReg r v) := fun f => hQ.regs f _
theorem growStack : FvmWithin Q growStack := fun f => hQ.regs f _
theorem storeWord (p v : Word) : FvmWithin Q (Machine.putWord p v) := fun f => hQ.putWord f p v

theorem opWrite {ea v : Word} : FvmWithin Q (opWrite op bm ea v) := by
  intro f
  cases h : isImmForm op with
  | true => rw [fvmAfter_error (opWrite_imm h)]; exact hQ.refl f
  | false => rw [fvmAfter_ok (opWrite_ok h)]; exact hQ.store f op bm ea v

theorem jumpTo {ea : Word} : FvmWithin Q (jumpTo op ea) := fun f => hQ.setIp f _

theorem jumpIf {cond : Word → Bool} : FvmWithin Q (jumpIf cond op) := by
  intro f
  rw [fvmAfter_ok jumpIf_ok]
  split <;> exact hQ.setIp f _

theorem aluOp {result flags : Word → Word → Word → Word} (hf : ∀ f w v1 v2, Q f (f.setFlags (flags w v1 v2))) :
    FvmWithin Q (aluOp bm a b result flags) :=
  hQ.bind hQ.eaOf fun _ => hQ.bind hQ.eaOf fun _ => hQ.bind hQ.opRead fun _ => hQ.bind hQ.opRead fun _ =>
    hQ.bind hQ.get fun _ => hQ.bind (fun f => hf f _ _ _) fun _ => hQ.bind hQ.opWrite fun _ => hQ.advanceIp

theorem compareOp {flags : Word → Word → Word} (hf : ∀ f v1 v2, Q f (f.setFlags (flags v1 v2))) :
    FvmWithin Q (compareOp bm a b flags) :=
  hQ.bind hQ.eaOf fun _ => hQ.bind hQ.eaOf fun _ => hQ.bind hQ.opRead fun _ => hQ.bind hQ.opRead fun _ =>
    hQ.bind (fun f => hf f _ _) fun _ => hQ.advanceIp

/-- The common form of MOV, MOVZX and MOVSX. -/
theorem move {rd wr : Bool} {g : Word → Word} : FvmWithin Q (do
    let a1 ← Machine.eaOf a
    let a2 ← Machine.eaOf b
    let v ← Machine.opRead b rd a2
    Machine.opWrite a wr a1 (g v)
    Machine.advanceIp) :=
  hQ.bind hQ.eaOf fun _ => hQ.bind hQ.eaOf fun _ => hQ.bind hQ.opRead fun _ => hQ.bind hQ.opWrite fun _ => hQ.advanceIp

theorem opMov : FvmWithin Q (opMov bm a b) := hQ.move
theorem opMovzx : FvmWithin Q (opMovzx a b) := hQ.move
theorem opMovsx : FvmWithin Q (opMovsx a b) := hQ.move

theorem opXchg : FvmWithin Q (opXchg bm a b) :=
  hQ.bind hQ.eaOf fun _ => hQ.bind hQ.eaOf fun _ => hQ.bind hQ.opRead fun _ => hQ.bind hQ.opRead fun _ =>
    hQ.bind hQ.opWrite fun _ => hQ.bind hQ.opWrite fun _ => hQ.advanceIp

theorem opPush : FvmWithin Q (opPush a) :=
  hQ.bind hQ.eaOf fun _ => hQ.bind hQ.growStack fun _ => hQ.bind hQ.opRead fun _ => hQ.bind (hQ.storeWord _ _) fun _ =>
    hQ.advanceIp

theorem opPop : FvmWithin Q (opPop a) :=
  hQ.bind hQ.eaOf fun _ => hQ.bind hQ.get fun _ => hQ.bind hQ.opWrite fun _ => hQ.bind (fun f => hQ.regs f _) fun _ =>
    hQ.advanceIp

theorem opPusha : FvmWithin Q opPusha :=
  hQ.bind (fun f => hQ.trans _ _ _ (hQ.pusha f _) (hQ.regs _ _)) fun _ => hQ.advanceIp

theorem opPopa : FvmWithin Q opPopa := hQ.bind (fun f => hQ.regs f _) fun _ => hQ.advanceIp

theorem opPushf : FvmWithin Q opPushf :=
  hQ.bind hQ.growStack fun _ => hQ.bind hQ.get fun _ => hQ.bind (hQ.storeWord _ _) fun _ => hQ.advanceIp

theorem opPopf (hf : ∀ f v, Q f (f.setFlags v)) : FvmWithin Q opPopf :=
  hQ.bind (fun f => hQ.trans _ _ _ (hf f _) (hQ.regs _ _)) fun _ => hQ.advanceIp

theorem opCall : FvmWithin Q (opCall a) :=
  hQ.bind hQ.eaOf fun _ => hQ.bind hQ.growStack fun _ => hQ.bind hQ.get fun _ => hQ.bind (hQ.storeWord _ _) fun _ =>
    hQ.jumpTo

theorem opRet : FvmWithin Q opRet :=
  hQ.bind hQ.get fun g => by
    split
    · exact fun f => hQ.finish f
    · exact fun f => hQ.trans _ _ _ (hQ.setIp f _) (hQ.regs _ _)

theorem opInc (hf : ∀ f v1, Q f (f.setFlags (flagsZS (incResult bm v1)))) : FvmWithin Q (opInc bm a) :=
  hQ.bind hQ.eaOf fun _ => hQ.bind hQ.opRead fun _ => hQ.bind hQ.opWrite fun _ => hQ.bind (fun f => hf f _) fun _ =>
    hQ.advanceIp

theorem opDec (hf : ∀ f v1, Q f (f.setFlags (flagsZS (v1 - 1)))) : FvmWithin Q (opDec bm a) :=
  hQ.bind hQ.eaOf fun _ => hQ.bind hQ.opRead fun _ => hQ.bind hQ.opWrite fun _ => hQ.bind (fun f => hf f _) fun _ =>
    hQ.advanceIp

theorem opNeg (hf : ∀ f v1, Q f (f.setFlags (flagsNeg v1))) : FvmWithin Q (opNeg bm a) :=
  hQ.bind hQ.eaOf fun _ => hQ.bind hQ.opRead fun _ => hQ.bind (fun f => hf f _) fun _ => hQ.bind hQ.opWrite fun _ =>
    hQ.advanceIp

theorem opBnot : FvmWithin Q (opBnot bm a) :=
  hQ.bind hQ.eaOf fun _ => hQ.bind hQ.opRead fun _ => hQ.bind hQ.opWrite fun _ => hQ.advanceIp

theorem opMul : FvmWithin Q (opMul bm a b) :=
  hQ.bind hQ.eaOf fun _ => hQ.bind hQ.eaOf fun _ => hQ.bind hQ.opRead fun _ => hQ.bind hQ.opRead fun _ =>
    hQ.bind hQ.opWrite fun _ => hQ.advanceIp

theorem opDiv : FvmWithin Q (opDiv bm a b) :=
  hQ.bind hQ.eaOf fun _ => hQ.bind hQ.eaOf fun _ => hQ.bind hQ.opRead fun _ => by
    split
    · exact hQ.advanceIp
    · exact hQ.bind hQ.opRead fun _ => hQ.bind hQ.opWrite fun _ => hQ.advanceIp

theorem opStandard (c : NativeChoice) (k : StdKind) : FvmWithin Q (opStandard c k) :=
  hQ.bind (fun f => hQ.native c k f) fun _ => hQ.advanceIp

end FvmStable

/-! ### The flag words -/

/-- Bits 2 to 30 of a flag word are 0 (10_state.md R47). -/
def FlagsClear (v : Word) : Prop := v &&& 0x7FFFFFFC = 0

theorem FlagsClear.or {v w : Word} (hv : FlagsClear v) (hw : FlagsClear w) : FlagsClear (v ||| w) := by
  unfold FlagsClear at *
  rw [BitVec.and_comm, BitVec.and_or_distrib_left, BitVec.and_comm _ v, BitVec.and_comm _ w, hv, hw]
  rfl

theorem carryFlag_clear (c : Bool) : FlagsClear (carryFlag c) := by cases c <;> rfl

theorem and_flagS_clear (r : Word) : FlagsClear (r &&& flagS) := by
  rw [FlagsClear, BitVec.and_assoc]
  exact BitVec.and_zero

theorem flagsZS_clear (r : Word) : FlagsClear (flagsZS r) := by
  unfold flagsZS
  split
  · rfl
  · exact and_flagS_clear r

/-- A word below 2 is a carry. -/
theorem clear_of_lt_two {v : Word} (h : v.toNat < 2) : FlagsClear v := by
  obtain h | h : v.toNat = 0 ∨ v.toNat = 1 := by omega
  · obtain rfl : v = 0 := BitVec.eq_of_toNat_eq h
    rfl
  · obtain rfl : v = 1 := BitVec.eq_of_toNat_eq h
    rfl

theorem flagsSub_clear (v1 v2 : Word) : FlagsClear (flagsSub v1 v2) := by
  simp only [flagsSub]
  split
  · rfl
  · exact (carryFlag_clear _).or (and_flagS_clear _)

theorem flagsAdd_clear (bm : Bool) (v1 v2 : Word) : FlagsClear (flagsAdd bm v1 v2) := by
  simp only [flagsAdd]
  split
  · refine (carryFlag_clear _).or ?_
    split
    · rfl
    · split <;> rfl
  · exact (carryFlag_clear _).or (flagsZS_clear _)

theorem flagsNeg_clear (v1 : Word) : FlagsClear (flagsNeg v1) := by
  simp only [flagsNeg]
  split
  · rfl
  · exact FlagsClear.or (by rfl) (and_flagS_clear _)

theorem flagsAdc_clear (bm : Bool) (w v1 v2 : Word) : FlagsClear (flagsAdc bm w v1 v2) :=
  (carryFlag_clear _).or (flagsZS_clear _)

theorem flagsSbb_clear (bm : Bool) (w v1 v2 : Word) : FlagsClear (flagsSbb bm w v1 v2) :=
  (carryFlag_clear _).or (flagsZS_clear _)

theorem flagsShl_clear (v1 v2 : Word) : FlagsClear (flagsShl v1 v2) :=
  (flagsZS_clear _).or (clear_of_lt_two (by
    rw [BitVec.toNat_ushiftRight, Nat.shiftRight_eq_div_pow]
    exact Nat.div_lt_of_lt_mul (v1 <<< shiftAmount (v2 - 1)).isLt))

theorem shrCarry_clear (v1 v2 : Word) : FlagsClear (shrCarry v1 v2) :=
  clear_of_lt_two (Nat.lt_succ_of_le (BitVec.toNat_and .. ▸ Nat.and_le_right))

/-! ### Every command -/

/-- A command stays within a relation that its building blocks keep. Where it writes `FLAGS` the relation also keeps a write
of clear flags, and where it is POPF any write of them. -/
theorem command_within {nc : NativeChoice} {i : Instr} {m : FvmOp Unit} (hQ : FvmStable Q)
    (h : commandOp nc i = some m)
    (hclear : writesFlags i = true → ∀ f v, FlagsClear v → Q f (f.setFlags v))
    (hpopf : i = .popf → ∀ f v, Q f (f.setFlags v)) : FvmWithin Q m := by
  cases i <;> cases h
  case mov => exact hQ.opMov
  case cmp => exact hQ.compareOp fun f _ _ => hclear rfl f _ (flagsSub_clear _ _)
  case add => exact hQ.aluOp fun f _ _ _ => hclear rfl f _ (flagsAdd_clear _ _ _)
  case sub => exact hQ.aluOp fun f _ _ _ => hclear rfl f _ (flagsSub_clear _ _)
  case jz => exact hQ.jumpIf
  case jnz => exact hQ.jumpIf
  case inc => exact hQ.opInc fun f _ => hclear rfl f _ (flagsZS_clear _)
  case dec => exact hQ.opDec fun f _ => hclear rfl f _ (flagsZS_clear _)
  case jmp => exact hQ.jumpIf
  case bxor => exact hQ.aluOp fun f _ _ _ => hclear rfl f _ (flagsZS_clear _)
  case band => exact hQ.aluOp fun f _ _ _ => hclear rfl f _ (flagsZS_clear _)
  case bor => exact hQ.aluOp fun f _ _ _ => hclear rfl f _ (flagsZS_clear _)
  case test => exact hQ.compareOp fun f _ _ => hclear rfl f _ (flagsZS_clear _)
  case js => exact hQ.jumpIf
  case jns => exact hQ.jumpIf
  case jb => exact hQ.jumpIf
  case jbe => exact hQ.jumpIf
  case ja => exact hQ.jumpIf
  case jae => exact hQ.jumpIf
  case push => exact hQ.opPush
  case pop => exact hQ.opPop
  case call => exact hQ.opCall
  case ret => exact hQ.opRet
  case bnot => exact hQ.opBnot
  case shl => exact hQ.aluOp fun f _ _ _ => hclear rfl f _ (flagsShl_clear _ _)
  case shr => exact hQ.aluOp fun f _ _ _ => hclear rfl f _ ((flagsZS_clear _).or (shrCarry_clear _ _))
  case sar => exact hQ.aluOp fun f _ _ _ => hclear rfl f _ ((flagsZS_clear _).or (shrCarry_clear _ _))
  case neg => exact hQ.opNeg fun f _ => hclear rfl f _ (flagsNeg_clear _)
  case pusha => exact hQ.opPusha
  case popa => exact hQ.opPopa
  case pushf => exact hQ.opPushf
  case popf => exact hQ.opPopf (hpopf rfl)
  case movzx => exact hQ.opMovzx
  case movsx => exact hQ.opMovsx
  case xchg => exact hQ.opXchg
  case mul => exact hQ.opMul
  case div => exact hQ.opDiv
  case adc => exact hQ.aluOp fun f _ _ _ => hclear rfl f _ (flagsAdc_clear _ _ _ _)
  case sbb => exact hQ.aluOp fun f _ _ _ => hclear rfl f _ (flagsSbb_clear _ _ _ _)
  case print => exact hQ.advanceIp
  case standard k => exact hQ.opStandard nc k

/-- The count of commands is as before. -/
theorem opsSame_stable : FvmStable fun f g => g.ops = f.ops where
  refl _ := rfl
  trans _ _ _ h1 h2 := h2.trans h1
  store _ _ _ _ _ := Fvm.store_ops
  putWord f _ _ := Fvm.setMem_ops f _
  pusha f _ := Fvm.setMem_ops f _
  regs _ _ := rfl
  setIp _ _ := rfl
  finish _ := rfl
  native c k f := nativeApply_ops c k f

/-- No command counts itself: the run loop does (44_fvm_program.md R289). -/
theorem command_ops {nc : NativeChoice} {i : Instr} {m : FvmOp Unit} (h : commandOp nc i = some m) (f : Fvm) :
    (fvmAfter m f).ops = f.ops :=
  command_within opsSame_stable h (fun _ _ _ _ => rfl) (fun _ _ _ => rfl) f

/-- `FLAGS` are as before. -/
theorem flagsSame_stable : FvmStable fun f g => g.flags = f.flags where
  refl _ := rfl
  trans _ _ _ h1 h2 := h2.trans h1
  store _ _ _ _ _ := Fvm.store_flags
  putWord f _ _ := Fvm.setMem_flags f _
  pusha f _ := Fvm.setMem_flags f _
  regs _ _ := rfl
  setIp _ _ := rfl
  finish _ := rfl
  native c k f := nativeApply_flags c k f

/-- `FLAGS` are as before, or clear but for `C`, `Z` and `S`. -/
theorem flagsSameOrClear_stable : FvmStable fun f g => g.flags = f.flags ∨ FlagsClear g.flags where
  refl _ := .inl rfl
  trans _ _ _ h1 h2 := h2.elim (fun e => h1.imp (e.trans ·) (e ▸ ·)) .inr
  store f op bm ea v := .inl (flagsSame_stable.store f op bm ea v)
  putWord f _ _ := .inl (Fvm.setMem_flags f _)
  pusha f _ := .inl (Fvm.setMem_flags f _)
  regs _ _ := .inl rfl
  setIp _ _ := .inl rfl
  finish _ := .inl rfl
  native c k f := .inl (flagsSame_stable.native c k f)

/-- A command's next state holds the FVM its operation leaves, also where it raises. -/
theorem exec_command_fvm {i : Instr} {s t : State} {m : FvmOp Unit} (h : commandOp s.cfg.native i = some m)
    (ht : exec i s = .next t) : t.fvm = fvmAfter m s.fvm := by
  rw [exec_command h] at ht
  obtain ⟨f, hm, e⟩ | ⟨k, f, hm, e⟩ := runFvm_cases m s <;> rw [e] at ht <;> cases ht
  · exact (fvmAfter_ok hm).symm
  · exact (fvmAfter_error hm).symm

end Sys2Proof.Machine

open Sys2Proof Sys2Proof.Machine

/-- Settles O11: the flag words of the writers are clear in bits 2 to 30, and the rest keeps `FLAGS`. -/
theorem flagsWordDiscipline : Obligations.FlagsWordDiscipline := by
  unfold Obligations.FlagsWordDiscipline
  intro i s t hi ht
  obtain ⟨m, hm⟩ := Option.isSome_iff_exists.mp ((commandOp_isSome s.cfg.native i).trans hi)
  rw [exec_command_fvm hm ht]
  refine ⟨fun _ hpopf hne => ?_, fun hw => ?_⟩
  · exact (command_within flagsSameOrClear_stable hm (fun _ _ _ hv => .inr hv) (fun e => absurd e hpopf) s.fvm).resolve_left
      hne
  · exact command_within flagsSame_stable hm (fun hw' => absurd (hw.symm.trans hw') Bool.false_ne_true)
      (fun e => by cases e; cases hw) s.fvm
end

section
/-! What every step keeps, as one calculus: a relation between states that the primitive updates of the model keep is kept by
every operation the sequencer can run, and so by every step. -/

namespace Sys2Proof.Machine

variable {α β : Type} {R : State → State → Prop}

theorem State.SameArguments.refl (s : State) : s.SameArguments s := ⟨rfl, rfl, rfl, rfl, rfl, rfl, rfl⟩

/-- `t` holds the same parameters, arguments, cursor, tables, window, registry, queue and FVM as `s`; the engine's phase, the
status, the ring, the header scratch and the result port are free. An update of free
fields only meets it by computation. -/
structure State.SameData (s t : State) : Prop where
  args : s.SameArguments t := by exact .refl _
  bc : t.bc = s.bc := by rfl
  tables : t.tables.select = s.tables.select := by rfl
  swb : t.swb = s.swb := by rfl
  registry : t.registry = s.registry := by rfl
  pend : t.pend = s.pend := by rfl
  fvm : t.fvm = s.fvm := by rfl

/-- The phase of the engine moves at most to a block header or to the symbol loop, and the status stays. -/
structure State.SteadyPhase (s t : State) : Prop where
  status : t.host.status = s.host.status := by rfl
  errKind : t.host.errKind = s.host.errKind := by rfl
  ue : t.ue = s.ue ∨ t.ue = .readingTables ∨ t.ue = .decodingSymbols

/-- A relation that the primitive updates of the symbol loop and the block header keep. -/
structure Steady (R : State → State → Prop) : Prop extends Keeping R where
  scratch : ∀ s t, s.SameData t → s.SteadyPhase t → R s t
  seek : ∀ s p, p ≤ s.endPos → R s (s.seek p)
  align : ∀ s, R s { s with bc := s.bc.align }
  table : ∀ s i len h, buildTable (tableSize i) len = some h → R s { s with tables := s.tables.replace i h }
  emit : ∀ s b, s.swb.wptr ≠ s.host.unpackedSize → R s (s.emit b)
  enqueue : ∀ s fb bits r rest, parseRecord s fb bits = some (r, rest) → R s (s.enqueue r)

/-- A relation that the run of a filter program keeps: the count of a command below the ceiling, and the command. -/
structure RunClosed (R : State → State → Prop) : Prop extends Keeping R where
  count : ∀ s, s.fvm.ops < s.cfg.fvmMaxOps → R s { s with fvm := s.fvm.countOp }
  command : ∀ s i m, commandOp s.cfg.native i = some m → R s { s with fvm := fvmAfter m s.fvm }

/-- A relation that every primitive update of a step keeps. -/
structure Stable (R : State → State → Prop) : Prop extends Steady R, RunClosed R where
  phase : ∀ s t, s.SameData t → R s t
  reset : ∀ s, R s s.sessionReset
  skipBytes : ∀ s n, n ≤ s.host.plen.toNat → R s { s with bc := ⟨BitVec.ofNat 32 n, 0⟩ }
  stored : ∀ s bs, R s { s with swb := ⟨s.swb.mem.writeRange 0 bs, s.host.unpackedSize⟩ }
  load : ∀ s p i d, R s { s with fvm := loadFvm p i d }
  writeBack : ∀ s a bs, R s { s with swb := { s.swb with mem := s.swb.mem.writeRange a bs } }
  popPend : ∀ s, R s s.popPend

/-- A sequence that begins by reading the state, where what it reads does not matter. -/
theorem within_read {k : State → Op β} (h : ∀ t, Within R (k t)) : Within R (get >>= k) := .get fun s => h s s

theorem after_congr {m n : Op α} {s t : State} (h : m s = n t) : after m s = after n t := by
  unfold after
  rw [h]

/-! ### Cursor, tables, window -/

namespace Steady
variable (hR : Steady R)
include hR

theorem bcRead (n : Nat) : Within R (bcRead n) := by
  intro s
  obtain ⟨hp, h⟩ | ⟨-, h⟩ := bcRead_cases n s
  · rw [after_ok h]; exact hR.seek s _ hp
  · rw [after_error h]; exact hR.refl s

theorem readExtra (n : Nat) : Within R (readExtra n) :=
  .ite (fun _ => .pure hR.toKeeping _) fun _ => hR.bcRead n

theorem bcReadFields (n : Nat) : Within R (bcReadFields n) := by
  induction n with
  | zero => exact .pure hR.toKeeping _
  | succ n ih => exact .bind hR.toKeeping (hR.bcRead 8) fun _ => .bind hR.toKeeping ih fun _ => .pure hR.toKeeping _

theorem decodeWith (h : HuffTable) : Within R (decodeWith h) :=
  .bind hR.toKeeping (fun s => hR.refl s) fun peeked => by
    cases h.bucket peeked with
    | none => exact .raise hR.toKeeping _
    | some bits =>
      exact .bind hR.toKeeping (hR.bcRead bits) fun _ =>
        .ite (fun _ => .raise hR.toKeeping _) fun _ => .pure hR.toKeeping _

theorem decodeSym (i : TableId) : Within R (decodeSym i) := .get fun s => hR.decodeWith (s.tables.select i) s

theorem htbBuild (i : TableId) (len : List (BitVec 4)) : Within R (htbBuild i len) := by
  intro s
  cases h : buildTable (tableSize i) len with
  | none => rw [after_error ((htbBuild_run i len s).trans (by rw [h]))]; exact hR.refl s
  | some t => rw [after_ok ((htbBuild_run i len s).trans (by rw [h]))]; exact hR.table s i len t h

theorem winPut (b : Byte) : Within R (winPut b) :=
  .get fun s => by
    split
    · exact hR.refl s
    · exact hR.emit s b ‹_›

/-- A copy that ends within the declared size appends each byte below it. -/
theorem copyBytes (d n : Nat) (s : State) (h : s.swb.wptr.toNat + n ≤ s.host.unpackedSize.toNat) :
    R s (s.copyBytes d n) := by
  induction n generalizing s with
  | zero => exact hR.refl s
  | succ n ih =>
    have hlt : s.swb.wptr.toNat < s.host.unpackedSize.toNat := by omega
    refine hR.trans _ _ _ (hR.emit s _ fun he => by rw [he] at hlt; omega) (ih _ ?_)
    have hw : (s.swb.wptr + 1).toNat = s.swb.wptr.toNat + 1 := by bv_omega
    rw [State.emit_swb, Window.append_wptr, State.emit_host, hw]
    omega

theorem winCopy (l d : Word) : Within R (winCopy l d) := by
  intro s
  by_cases h : s.copyAllowed l d = true
  · rw [after_ok ((winCopy_run l d s).trans (if_pos h))]
    simp only [State.copyAllowed, Bool.and_eq_true, decide_eq_true_eq] at h
    exact hR.copyBytes _ _ s h.2
  · rw [after_error ((winCopy_run l d s).trans (if_neg h))]
    exact hR.refl s

/-- An update of what `SameData` leaves free, in a steady phase. -/
theorem update {f : State → State} (hd : ∀ s, State.SameData s (f s)) (hp : ∀ s, State.SteadyPhase s (f s)) :
    Within R (modify f : Op PUnit) := fun s => hR.scratch s _ (hd s) (hp s)

/-- A write of the low-distance memory. -/
theorem setLow (f : State → LowDist) : Within R (modify (fun s => { s with low := f s }) : Op PUnit) :=
  hR.update (fun _ => {}) fun _ => { ue := .inl rfl }

theorem ringInsert (d : Word) : Within R (ringInsert d) :=
  hR.update (fun _ => {}) fun _ => { ue := .inl rfl }

theorem setLast (l d : Word) : Within R (setLast l d) :=
  hR.update (fun _ => {}) fun _ => { ue := .inl rfl }

theorem ringSelect (k : Fin 4) : Within R (ringSelect k) := fun s =>
  hR.scratch s _ {} { ue := .inl rfl }

/-! ### The symbols of LD but EOB -/

theorem lowDist : Within R lowDist :=
  .get fun s => by
    split
    · exact hR.setLow (fun s => ⟨s.low.prev, s.low.rep - 1⟩) s
    · refine Within.bind hR.toKeeping (hR.decodeSym .ldd) (fun x => ?_) s
      exact .ite (fun _ => .bind hR.toKeeping (hR.setLow _) fun _ => within_read fun _ => .pure hR.toKeeping _)
        fun _ => .bind hR.toKeeping (hR.setLow _) fun _ => .pure hR.toKeeping _

theorem readDistance (d : Nat) : Within R (readDistance d) :=
  .ite (fun _ => .pure hR.toKeeping _) fun _ =>
    .ite (fun _ => .bind hR.toKeeping (hR.bcRead _) fun _ => .pure hR.toKeeping _) fun _ =>
      .bind hR.toKeeping (hR.readExtra _) fun _ => .bind hR.toKeeping hR.lowDist fun _ => .pure hR.toKeeping _

theorem matchOp (q : Nat) : Within R (matchOp q) :=
  .bind hR.toKeeping (hR.readExtra _) fun _ => .bind hR.toKeeping (hR.decodeSym .dd) fun d =>
    .bind hR.toKeeping (hR.readDistance d) fun _ => .bind hR.toKeeping (hR.ringInsert _) fun _ =>
      .bind hR.toKeeping (hR.setLast _ _) fun _ => hR.winCopy _ _

theorem repdOp (k : Fin 4) : Within R (repdOp k) :=
  .bind hR.toKeeping (hR.ringSelect k) fun _ => .bind hR.toKeeping (hR.decodeSym .rd) fun _ =>
    .bind hR.toKeeping (hR.readExtra _) fun _ => .bind hR.toKeeping (hR.setLast _ _) fun _ => hR.winCopy _ _

theorem shortOp (j : Nat) : Within R (shortOp j) :=
  .bind hR.toKeeping (hR.bcRead _) fun _ => .bind hR.toKeeping (hR.ringInsert _) fun _ =>
    .bind hR.toKeeping (hR.setLast _ _) fun _ => hR.winCopy _ _

theorem replOp : Within R replOp :=
  .get fun s => by
    split
    · exact hR.refl s
    · exact hR.winCopy _ _ s

theorem readRecordLen (fb : Byte) : Within R (readRecordLen fb) :=
  .ite (fun _ => .bind hR.toKeeping (hR.bcRead 8) fun _ => .pure hR.toKeeping _) fun _ =>
    .ite (fun _ => hR.bcRead 16) fun _ => .pure hR.toKeeping _

theorem filterRecord (fb : Byte) : Within R (filterRecord fb) :=
  .bind hR.toKeeping (hR.readRecordLen fb) fun n => .bind hR.toKeeping (hR.bcReadFields n) fun record =>
    .get fun s => by
      cases h : parseRecord s fb (bytesBits record) with
      | none => exact hR.refl s
      | some p => exact hR.enqueue s fb _ p.1 p.2 h

theorem filtOp : Within R filtOp := .bind hR.toKeeping (hR.bcRead 8) fun _ => hR.filterRecord _

/-! ### The block header and its lengths -/

theorem readMetaLengths (n : Nat) (ml : List (BitVec 4)) : Within R (readMetaLengths n ml) := by
  induction n generalizing ml with
  | zero => exact .pure hR.toKeeping _
  | succ n ih =>
    unfold Machine.readMetaLengths
    refine .ite (fun _ => .pure hR.toKeeping _) fun _ => .bind hR.toKeeping (hR.bcRead 4) fun v =>
      .ite (fun _ => ih _) fun _ => .bind hR.toKeeping (hR.bcRead 4) fun z => .ite (fun _ => ih _) fun _ =>
        .ite (fun _ => .raise hR.toKeeping _) fun _ => ih _

theorem buildFour : Within R buildFour :=
  within_read fun _ => .bind hR.toKeeping (hR.htbBuild .ld _) fun _ => .bind hR.toKeeping (hR.htbBuild .dd _) fun _ =>
    .bind hR.toKeeping (hR.htbBuild .ldd _) fun _ => .bind hR.toKeeping (hR.htbBuild .rd _) fun _ =>
      hR.update (fun _ => {}) fun _ => { ue := .inr (.inr rfl) }

theorem appendLens (ls : List (BitVec 4)) : Within R (appendLens ls) :=
  .bind hR.toKeeping (hR.update (fun _ => {}) fun _ => { ue := .inl rfl })
    fun _ => within_read fun _ => .ite (fun _ => hR.buildFour) fun _ => .pure hR.toKeeping _

theorem runLens (w base : Nat) (prev : Bool) : Within R (runLens w base prev) :=
  .bind hR.toKeeping (hR.bcRead w) fun _ => within_read fun _ => .ite (fun _ => .raise hR.toKeeping _) fun _ =>
    .ite (fun _ => .raise hR.toKeeping _) fun _ => hR.appendLens _

theorem blockHeaderOp : Within R blockHeaderOp :=
  .bind hR.toKeeping hR.align fun _ => .bind hR.toKeeping (hR.setLow _) fun _ =>
    .bind hR.toKeeping (hR.bcRead 1) fun _ => .ite (fun _ => .raise hR.toKeeping _) fun _ =>
      .bind hR.toKeeping (hR.bcRead 1) fun reuse => .get fun s => by
        split
        · split
          · exact hR.scratch s _ {} { ue := .inr (.inr rfl) }
          · exact hR.refl s
        · have enter : Within R (modify fun s : State => { s with ue := .readingTables, hdr := .lengths, lens := [] }) :=
            hR.update (fun _ => {}) fun _ => { ue := .inr (.inl rfl) }
          exact (Within.bind hR.toKeeping (hR.readMetaLengths 20 []) fun ml =>
            .bind hR.toKeeping (hR.htbBuild .md ml) fun _ => enter) s

end Steady

/-! ### Filters, EOB -/

/-- The run of a program from a state whose count and fuel stay below the ceiling (44_fvm_program.md R289 to R291). -/
theorem RunClosed.fvmRun (hR : RunClosed R) (p : FilterProgram) (k : Nat) (s : State)
    (h : s.fvm.ops + k ≤ s.cfg.fvmMaxOps) : R s (after (fvmRun p k) s) := by
  induction k generalizing s with
  | zero =>
    cases hc : p.cmds[s.fvm.ip.toNat]? with
    | none => rw [after_ok (fvmRun_end 0 hc)]; exact hR.refl s
    | some c => rw [after_error (fvmRun_zero hc)]; exact hR.refl s
  | succ k ih =>
    cases hc : p.cmds[s.fvm.ip.toNat]? with
    | none => rw [after_ok (fvmRun_end _ hc)]; exact hR.refl s
    | some c =>
      cases hm : commandOp s.cfg.native c with
      | none =>
        rw [after_error (by simp only [Machine.fvmRun, op_run_bind, op_run_get, hc, hm]; rfl)]
        exact hR.refl s
      | some m =>
        have hcmd := hR.trans _ _ _ (hR.count s (by omega)) (hR.command _ c m hm)
        have hops := command_ops hm s.fvm.countOp
        cases hf : m s.fvm.countOp with
        | error e f =>
          rw [fvmAfter_error hf] at hcmd
          rw [after_error ((fvmRun_succ k hc hm).trans (by rw [hf]))]
          exact hcmd
        | ok u f =>
          rw [fvmAfter_ok hf] at hcmd hops
          have hrun : Machine.fvmRun p (k + 1) s = if f.ended = true then .ok () { s with fvm := f }
              else Machine.fvmRun p k { s with fvm := f } := (fvmRun_succ k hc hm).trans (by rw [hf])
          by_cases he : f.ended = true
          · rw [after_ok (hrun.trans (if_pos he))]
            exact hcmd
          · rw [after_congr (hrun.trans (if_neg he))]
            refine hR.trans _ _ _ hcmd (ih _ ?_)
            change f.ops + k ≤ s.cfg.fvmMaxOps
            rw [hops, Fvm.countOp_ops]
            omega

/-- A program that is found leaves the state as it was. -/
theorem lookupProgram_eq_ok {i : FilterInstance} {s t : State} {p : FilterProgram} (h : lookupProgram i s = .ok p t) :
    t = s := by
  simp only [lookupProgram, op_run_bind, op_run_get] at h
  cases he : s.registry[i.prog]? with
  | none => rw [he] at h; cases h
  | some e => rw [he] at h; cases h; rfl

/-- A start that succeeds: the range was produced, and the FVM stands at the start of a program (43_unpack_engine.md R260). -/
theorem applyStart_eq_ok {i : FilterInstance} {s u : State} {a : Unit} (h : applyStart i s = .ok a u) :
    s.ready i = true ∧ ∃ p, u = { s with ret := s.ue, ue := .applyFilter, fvm := loadFvm p i (s.blockBytes i) } := by
  obtain ⟨p, t, hp, hset⟩ := op_bind_eq_ok h
  obtain rfl := lookupProgram_eq_ok hp
  simp only [op_run_bind, op_run_get] at hset
  by_cases hr : t.ready i = true
  · rw [op_run_ite, if_pos hr] at hset
    cases hset
    exact ⟨hr, p, rfl⟩
  · rw [op_run_ite, if_neg hr] at hset
    cases hset

namespace Stable
variable (hR : Stable R)
include hR

theorem lookupProgram (i : FilterInstance) : Within R (lookupProgram i) :=
  .get fun s => by
    cases s.registry[i.prog]? with
    | none => exact hR.refl s
    | some e => exact hR.refl s

theorem applyStart (i : FilterInstance) : Within R (applyStart i) :=
  .bind hR.toKeeping (hR.lookupProgram i) fun p => .get fun s => by
    split
    · exact hR.trans _ _ _ (hR.load s p i _) (hR.phase _ _ {})
    · exact hR.refl s

theorem applyFinish (i : FilterInstance) : Within R (applyFinish i) := by
  intro s
  have h := applyFinish_run i s
  split at h
  · rw [after_ok h]
    exact hR.trans _ _ _ (hR.writeBack s _ _) (hR.phase _ _ {})
  · rw [after_error h]
    exact hR.refl s

/-- `Apply` in one piece: the run starts with the count at 0 (44_fvm_program.md R288). -/
theorem applyInstance (i : FilterInstance) : Within R (applyInstance i) :=
  .bind hR.toKeeping (hR.lookupProgram i) fun p s =>
    after_bind hR.toKeeping (hR.applyStart i s) fun _ u hu => by
      have hrun : R u (after (Machine.fvmRun p u.cfg.fvmMaxOps) u) :=
        hR.fvmRun p _ u (by
          obtain ⟨-, q, rfl⟩ := applyStart_eq_ok hu
          exact (Nat.zero_add _).le)
      exact after_bind (m := Machine.fvmRun p u.cfg.fvmMaxOps) hR.toKeeping hrun fun _ v _ => hR.applyFinish i v

theorem drainLoop (n : Nat) : Within R (drainLoop n) := by
  induction n with
  | zero => exact .pure hR.toKeeping _
  | succ n ih =>
    refine .get fun s => ?_
    cases s.pend with
    | nil => exact hR.refl s
    | cons i l =>
      have hpop : Within R (modify State.popPend) := hR.popPend
      exact Within.ite (fun _ => .bind hR.toKeeping (hR.applyInstance i) fun _ => .bind hR.toKeeping hpop fun _ => ih)
        (fun _ => .pure hR.toKeeping _) s

theorem drain : Within R drain := within_read fun _ => hR.drainLoop _

theorem eobOp : Within R eobOp :=
  .bind hR.toKeeping (hR.bcRead 1) fun _ => .ite (fun _ s => hR.phase s _ {})
    fun _ => .bind hR.toKeeping (hR.bcRead 1) fun _ => .bind hR.toKeeping hR.drain fun _ => .get fun s => by
      split
      · exact hR.phase s _ {}
      · exact hR.refl s

end Stable
end Sys2Proof.Machine
end

section
/-! The sequencer: what a state plans, what a step does with the plan, and that every step stays within a stable relation. -/

namespace Sys2Proof.Machine

variable {α : Type} {R : State → State → Prop} {s t u : State} {i : Instr}

/-! ### The instructions of the stream -/

/-- The operations the symbols of LD but EOB stand for (43_unpack_engine.md R227). -/
inductive LdOp : Op Unit → Prop where
  | lit (b : Byte) : LdOp (litOp b)
  | filt : LdOp filtOp
  | repl : LdOp replOp
  | repd (k : Fin 4) : LdOp (repdOp k)
  | short (j : Nat) : LdOp (shortOp j)
  | length (q : Nat) : LdOp (matchOp q)

/-- The operations the symbols of MD stand for (43_unpack_engine.md R224). -/
inductive MdOp : Op Unit → Prop where
  | len (l : BitVec 4) : MdOp (mdLenOp l)
  | run (w base : Nat) (prev : Bool) : MdOp (runLens w base prev)

/-- The rows of LD from 256 on: three symbols, then the rows of the ring, of the short slots and of the length slots. -/
theorem ldRows_eq : ldRows = [.eob, .filt, .repl] ++ (repdRows ++ (shortRows ++ matchRows)) := rfl

theorem exec_repdRow : ∀ i ∈ repdRows, ∃ k, ∀ s, exec i s = runOp (repdOp k) s := by
  simp only [repdRows, List.forall_mem_cons, List.not_mem_nil, IsEmpty.forall_iff, implies_true, and_true]
  exact ⟨⟨0, fun _ => rfl⟩, ⟨1, fun _ => rfl⟩, ⟨2, fun _ => rfl⟩, 3, fun _ => rfl⟩

theorem exec_shortRow (j : Fin 8) (s : State) : exec (shortRows.get j) s = runOp (shortOp j) s := by
  fin_cases j <;> rfl

theorem exec_matchRow (q : Fin 28) (s : State) : exec (matchRows.get q) s = runOp (matchOp q) s := by
  fin_cases q <;> rfl

/-- A symbol of LD executes EOB or one of the other operations. -/
theorem exec_ldInstr {x : Nat} (h : ldInstr x = .ok i) :
    ∃ m, (m = eobOp ∨ LdOp m) ∧ ∀ s, exec i s = runOp m s := by
  unfold ldInstr at h
  split at h
  · cases h
    exact ⟨_, .inr (.lit _), fun _ => rfl⟩
  · split at h
    · rename_i j hj
      cases h
      have hmem := List.mem_of_getElem? hj
      rw [ldRows_eq, List.mem_append, List.mem_append, List.mem_append] at hmem
      obtain hi | hi | hi | hi := hmem
      · simp only [List.mem_cons, List.not_mem_nil, or_false] at hi
        obtain rfl | rfl | rfl := hi
        · exact ⟨_, .inl rfl, fun _ => rfl⟩
        · exact ⟨_, .inr .filt, fun _ => rfl⟩
        · exact ⟨_, .inr .repl, fun _ => rfl⟩
      · obtain ⟨k, hk⟩ := exec_repdRow i hi
        exact ⟨_, .inr (.repd k), hk⟩
      · obtain ⟨j, rfl⟩ := List.mem_iff_get.mp hi
        exact ⟨_, .inr (.short j), exec_shortRow j⟩
      · obtain ⟨q, rfl⟩ := List.mem_iff_get.mp hi
        exact ⟨_, .inr (.length q), exec_matchRow q⟩
    · cases h

/-- A symbol of MD executes one of its operations. -/
theorem exec_mdInstr {x : Nat} (h : mdInstr x = .ok i) : ∃ m, MdOp m ∧ ∀ s, exec i s = runOp m s := by
  unfold mdInstr at h
  split at h
  · cases h
    exact ⟨_, .len _, fun _ => rfl⟩
  · split at h
    · rename_i j hj
      cases h
      have hmem := List.mem_of_getElem? hj
      simp only [mdRows, List.mem_cons, List.not_mem_nil, or_false] at hmem
      obtain rfl | rfl | rfl | rfl := hmem
      · exact ⟨_, .run 3 3 true, fun _ => rfl⟩
      · exact ⟨_, .run 7 11 true, fun _ => rfl⟩
      · exact ⟨_, .run 3 3 false, fun _ => rfl⟩
      · exact ⟨_, .run 7 11 false, fun _ => rfl⟩
    · cases h

theorem Steady.ldOp (hR : Steady R) {m : Op Unit} (hm : LdOp m) : Within R m := by
  cases hm with
  | lit b => exact hR.winPut b
  | filt => exact hR.filtOp
  | repl => exact hR.replOp
  | repd k => exact hR.repdOp k
  | short j => exact hR.shortOp j
  | length q => exact hR.matchOp q

theorem Steady.mdOp (hR : Steady R) {m : Op Unit} (hm : MdOp m) : Within R m := by
  cases hm with
  | len l => exact hR.appendLens [l]
  | run w base prev => exact hR.runLens w base prev

/-! ### What a state plans -/

/-- Everything a state can plan (43_unpack_engine.md R215), with what is known of the state then. -/
inductive PlanCase (s : State) : Plan → Prop where
  | start : s.host.ctrlStart = true → PlanCase s (.act startOp)
  | rest : s.ue.active = false → PlanCase s (.act (pure ()))
  | stored : s.ue = .stored → PlanCase s (.act storedOp)
  | complete : s.ue = .readingTables ∨ s.ue = .decodingSymbols → PlanCase s (.act (modify State.complete))
  | apply (i : FilterInstance) : s.ue = .readingTables ∨ s.ue = .decodingSymbols → s.pend.head? = some i →
      s.ready i = true → PlanCase s (.act (applyStart i))
  | header : s.ue = .readingTables → PlanCase s (.fetch (pure .blockHeader))
  | lengths : s.ue = .readingTables → PlanCase s (.fetch fetchMd)
  | symbol : s.ue = .decodingSymbols → PlanCase s (.fetch fetchLd)
  | lost : PlanCase s (.act (throw (.fault .noSuchProgram)))
  | finish (i : FilterInstance) : s.ue = .applyFilter → PlanCase s (.act (finishHead i))
  | command (c : Instr) : s.ue = .applyFilter → PlanCase s (.fetch (fetchCommand c))

theorem checkpoint_cases {next : Op Instr} (hue : s.ue = .readingTables ∨ s.ue = .decodingSymbols)
    (hnext : PlanCase s (.fetch next)) : PlanCase s (checkpoint s next) := by
  have hrest : PlanCase s
      (if s.swb.wptr = s.host.unpackedSize then .act (modify State.complete) else .fetch next) := by
    split
    · exact .complete hue
    · exact hnext
  unfold checkpoint
  cases hp : s.pend with
  | nil => exact hrest
  | cons i l =>
    by_cases hr : s.ready i = true
    · simp only [hr, if_true]
      exact .apply i hue (by rw [hp]; rfl) hr
    · simp only [hr]
      exact hrest

theorem planFilter_cases (hue : s.ue = .applyFilter) : PlanCase s (planFilter s) := by
  unfold planFilter
  cases s.running with
  | none => exact .lost
  | some ip =>
    by_cases he : s.fvm.ended = true
    · simp only [he, if_true]
      exact .finish _ hue
    · simp only [he]
      cases ip.2.cmds[s.fvm.ip.toNat]? with
      | none => exact .finish _ hue
      | some c => exact .command c hue

theorem plan_cases (s : State) : PlanCase s (plan s) := by
  unfold plan
  by_cases hc : s.host.ctrlStart = true
  · rw [if_pos hc]
    exact .start hc
  · rw [if_neg hc]
    cases hue : s.ue with
    | idle => exact .rest (by rw [hue]; rfl)
    | done => exact .rest (by rw [hue]; rfl)
    | failed => exact .rest (by rw [hue]; rfl)
    | stored => exact .stored hue
    | readingTables =>
      cases s.hdr with
      | start => exact checkpoint_cases (.inl hue) (.header hue)
      | lengths => exact .lengths hue
    | decodingSymbols => exact checkpoint_cases (.inr hue) (.symbol hue)
    | applyFilter => exact planFilter_cases hue

/-! ### What a step does -/

/-- What a fetch can give, and the state it leaves. -/
theorem fetchLd_ok (h : fetchLd s = .ok i u) : ∃ x, decodeSym .ld s = .ok x u ∧ ldInstr x = .ok i := by
  obtain ⟨x, t, hx, h⟩ := op_bind_eq_ok h
  cases hi : ldInstr x with
  | error e => rw [hi] at h; cases h
  | ok j => rw [hi] at h; cases h; exact ⟨x, hx, hi⟩

theorem fetchMd_ok (h : fetchMd s = .ok i u) : ∃ x, decodeSym .md s = .ok x u ∧ mdInstr x = .ok i := by
  obtain ⟨x, t, hx, h⟩ := op_bind_eq_ok h
  cases hi : mdInstr x with
  | error e => rw [hi] at h; cases h
  | ok j => rw [hi] at h; cases h; exact ⟨x, hx, hi⟩

/-- A fetched command is one, and the fetch has counted it (44_fvm_program.md R289). -/
theorem fetchCommand_ok {c : Instr} (h : fetchCommand c s = .ok i u) :
    i = c ∧ c.isCommand = true ∧ u = { s with fvm := s.fvm.countOp } := by
  simp only [fetchCommand, op_run_bind, op_run_get] at h
  by_cases hlt : s.fvm.ops < s.cfg.fvmMaxOps
  · rw [op_run_ite, if_pos hlt] at h
    by_cases hc : c.isCommand = true
    · simp only [op_run_bind, op_run_set, if_pos hc] at h
      cases h
      exact ⟨rfl, hc, rfl⟩
    · simp only [op_run_bind, op_run_set, if_neg hc] at h
      cases h
  · rw [op_run_ite, if_neg hlt] at h
    cases h

/-- The three ways a step answers a next state: an action, a fetched instruction on what its fetch leaves, or a decode error
of the fetch. -/
theorem step_cases (h : step s = .next t) :
    (∃ m, PlanCase s (.act m) ∧ runOp m s = .next t) ∨
    (∃ m i u, PlanCase s (.fetch m) ∧ m s = .ok i u ∧ exec i u = .next t) ∨
    ∃ m k u, PlanCase s (.fetch m) ∧ m s = .error (.raise k) u ∧ t = u.raise k := by
  have hp := plan_cases s
  unfold step at h
  cases hplan : plan s with
  | act m =>
    rw [hplan] at h hp
    exact .inl ⟨m, hp, h⟩
  | fetch m =>
    rw [hplan] at h hp
    cases hm : m s with
    | ok i u =>
      simp only [hm] at h
      exact .inr (.inl ⟨m, i, u, hp, hm, h⟩)
    | error e u =>
      simp only [hm] at h
      cases e with
      | raise k => cases h; exact .inr (.inr ⟨m, k, u, hp, hm, rfl⟩)
      | fault r => cases h
      | refuse r => cases h

/-! ### Every step stays within a stable relation -/

namespace Stable
variable (hR : Stable R)
include hR

theorem raise (s : State) (k : ErrKind) : R s (s.raise k) := hR.phase s _ {}

/-- A next state of an operation that keeps `R`: a raise keeps it too. -/
theorem of_runOp {m : Op Unit} (hm : R s (after m s)) (h : runOp m s = .next t) : R s t := by
  obtain hs | ⟨k, u, hs, rfl⟩ := runOp_within hm h
  · exact hs
  · exact hR.trans _ _ _ hs (hR.raise u k)

theorem complete (s : State) : R s s.complete := hR.phase s _ {}

theorem enterMethod : Within R enterMethod :=
  .get fun s => by
    split
    · exact hR.phase s _ {}
    · split
      · exact hR.refl s
      · split
        · exact hR.phase s _ {}
        · exact hR.refl s

theorem startOp : Within R startOp :=
  .get fun s => by
    split
    · exact hR.phase s _ {}
    · exact hR.trans _ _ _ (hR.reset s) (hR.enterMethod s.sessionReset)

theorem bcReadBytes (n : Nat) : Within R (bcReadBytes n) := by
  intro s
  obtain ⟨hn, h⟩ | ⟨-, h⟩ := bcReadBytes_cases n s
  · rw [after_ok h]; exact hR.skipBytes s _ hn
  · rw [after_error h]; exact hR.refl s

theorem storedOp : Within R storedOp :=
  .get fun s => by
    refine after_bind hR.toKeeping (hR.bcReadBytes _ s) fun bs u _ => ?_
    exact hR.trans _ _ _ (hR.stored u bs) (hR.complete _)

theorem fetchLd : Within R fetchLd :=
  .bind hR.toKeeping (hR.decodeSym .ld) fun x => by
    cases ldInstr x with
    | ok i => exact .pure hR.toKeeping i
    | error e => exact .raise hR.toKeeping _

theorem fetchMd : Within R fetchMd :=
  .bind hR.toKeeping (hR.decodeSym .md) fun x => by
    cases mdInstr x with
    | ok i => exact .pure hR.toKeeping i
    | error e => exact .raise hR.toKeeping _

theorem fetchCommand (c : Instr) : Within R (fetchCommand c) :=
  .get fun s => by
    by_cases h : s.fvm.ops < s.cfg.fvmMaxOps
    · rw [if_pos h]
      refine hR.trans _ _ _ (hR.count s h) ?_
      exact Within.ite (fun _ => .pure hR.toKeeping c) (fun _ => .throw hR.toKeeping _) _
    · rw [if_neg h]
      exact hR.refl s

theorem finishHead (i : FilterInstance) : Within R (finishHead i) :=
  .bind hR.toKeeping (hR.applyFinish i) fun _ => hR.popPend

theorem exec_command (hi : i.isCommand = true) (h : exec i s = .next t) : R s t := by
  obtain ⟨m, hm⟩ := Option.isSome_iff_exists.mp ((commandOp_isSome s.cfg.native i).trans hi)
  rw [Machine.exec_command hm] at h
  refine hR.of_runOp ?_ h
  rw [after_liftFvm]
  exact hR.command s i m hm

/-- An action of the sequencer. -/
theorem act {m : Op Unit} (hp : PlanCase s (.act m)) : R s (after m s) := by
  cases hp with
  | start => exact hR.startOp s
  | rest => exact hR.refl s
  | stored => exact hR.storedOp s
  | complete => exact hR.complete s
  | apply i => exact hR.applyStart i s
  | lost => exact hR.refl s
  | finish i => exact hR.finishHead i s

/-- A fetch. -/
theorem fetch {m : Op Instr} (hp : PlanCase s (.fetch m)) : R s (after m s) := by
  cases hp with
  | header => exact hR.refl s
  | lengths => exact hR.fetchMd s
  | symbol => exact hR.fetchLd s
  | command c => exact hR.fetchCommand c s

/-- The execution of what a fetch gave. -/
theorem execute {m : Op Instr} (hp : PlanCase s (.fetch m)) (hm : m s = .ok i u) (h : exec i u = .next t) : R u t := by
  cases hp with
  | header =>
    cases hm
    exact hR.of_runOp (hR.blockHeaderOp _) h
  | lengths =>
    obtain ⟨x, -, hx⟩ := fetchMd_ok hm
    obtain ⟨m, hop, he⟩ := exec_mdInstr hx
    exact hR.of_runOp (hR.mdOp hop u) (he u ▸ h)
  | symbol =>
    obtain ⟨x, -, hx⟩ := fetchLd_ok hm
    obtain ⟨m, hop, he⟩ := exec_ldInstr hx
    have hm : Within R m := hop.elim (· ▸ hR.eobOp) hR.ldOp
    exact hR.of_runOp (hm u) (he u ▸ h)
  | command c =>
    obtain ⟨rfl, hc, -⟩ := fetchCommand_ok hm
    exact hR.exec_command hc h

/-- What every primitive update keeps, every step keeps. -/
theorem step (h : step s = .next t) : R s t := by
  obtain ⟨m, hp, hm⟩ | ⟨m, i, u, hp, hm, he⟩ | ⟨m, k, u, hp, hm, rfl⟩ := step_cases h
  · exact hR.of_runOp (hR.act hp) hm
  · have hf := hR.fetch hp
    rw [after_ok hm] at hf
    exact hR.trans _ _ _ hf (hR.execute hp hm he)
  · have hf := hR.fetch hp
    rw [after_error hm] at hf
    exact hR.trans _ _ _ hf (hR.raise u k)

end Stable
end Sys2Proof.Machine
end

section
/-! What every step keeps: the arguments, the cursor within the payload, the write cursor within the declared size. -/

namespace Sys2Proof.Machine

variable {s t : State}

/-- `P` holds afterwards where it held before. -/
def Keeps (P : State → Prop) (s t : State) : Prop := P s → P t

theorem keeps_keeping (P : State → Prop) : Keeping (Keeps P) where
  refl _ h := h
  trans _ _ _ h1 h2 h := h2 (h1 h)

theorem State.SameArguments.trans {u : State} (h1 : s.SameArguments t) (h2 : t.SameArguments u) : s.SameArguments u := by
  obtain ⟨a1, a2, a3, a4, a5, a6, a7⟩ := h1
  obtain ⟨b1, b2, b3, b4, b5, b6, b7⟩ := h2
  exact ⟨b1.trans a1, b2.trans a2, b3.trans a3, b4.trans a4, b5.trans a5, b6.trans a6, b7.trans a7⟩

/-- No update of the model writes what the host wrote (10_state.md R26 to R30). -/
theorem sameArguments_stable : Stable State.SameArguments where
  refl := .refl
  trans _ _ _ := .trans
  scratch _ _ h _ := h.args
  phase _ _ h := h.args
  seek s _ _ := .refl s
  align s := .refl s
  table s _ _ _ _ := .refl s
  emit s _ _ := .refl s
  enqueue s _ _ _ _ _ := .refl s
  count s _ := .refl s
  command s _ _ _ := .refl s
  reset s := .refl s
  skipBytes s _ _ := .refl s
  stored s _ := .refl s
  load s _ _ _ := .refl s
  writeBack s _ _ := .refl s
  popPend s := .refl s

theorem State.SameData.endPos (h : s.SameData t) : t.endPos = s.endPos := by
  obtain ⟨-, -, -, hplen, -, -, -⟩ := h.args
  rw [State.endPos, hplen, State.endPos]

theorem State.SameData.unpackedSize (h : s.SameData t) : t.host.unpackedSize = s.host.unpackedSize := by
  obtain ⟨-, -, hsize, -, -, -, -⟩ := h.args
  exact hsize

theorem State.SameData.cfg (h : s.SameData t) : t.cfg = s.cfg := h.args.1

theorem State.SameData.cursorOk (h : s.SameData t) (hs : s.CursorOk) : t.CursorOk := by
  change t.pos ≤ t.endPos
  rw [State.pos, h.bc, h.endPos]
  exact hs

/-- The discard to a byte boundary does not pass the end (40_bitcursor.md R146). -/
theorem cursorOk_align (hs : s.CursorOk) : State.CursorOk { s with bc := s.bc.align } := by
  unfold BitCursor.align
  split
  · exact hs
  · rename_i hb
    have hbit : s.bc.bit.toNat ≠ 0 := fun h => hb (BitVec.eq_of_toNat_eq h)
    have hplen := s.host.plen.isLt
    simp only [State.CursorOk, State.pos, State.endPos] at hs ⊢
    have hbyte : (s.bc.byte + 1).toNat = s.bc.byte.toNat + 1 := by bv_omega
    rw [hbyte, show BitVec.toNat (0 : BitVec 3) = 0 from rfl]
    omega

/-- A byte position within the payload (40_bitcursor.md R147). -/
theorem cursorOk_byte {n : Nat} (h : n ≤ s.host.plen.toNat) :
    State.CursorOk { s with bc := ⟨BitVec.ofNat 32 n, 0⟩ } := by
  have hn : (BitVec.ofNat 32 n).toNat ≤ n := by rw [BitVec.toNat_ofNat]; exact Nat.mod_le _ _
  change 8 * (BitVec.ofNat 32 n).toNat + 0 ≤ 8 * s.host.plen.toNat
  omega

/-- Every move of the cursor ends within the payload. -/
theorem cursorOk_stable : Stable (Keeps State.CursorOk) where
  toKeeping := keeps_keeping _
  scratch _ _ h _ := h.cursorOk
  phase _ _ h := h.cursorOk
  seek _ _ hp _ := (State.pos_seek hp).trans_le hp
  align _ := cursorOk_align
  table _ _ _ _ _ h := h
  emit _ _ _ h := h
  enqueue _ _ _ _ _ _ h := h
  count _ _ h := h
  command _ _ _ _ h := h
  reset _ _ := Nat.zero_le _
  skipBytes _ _ hn _ := cursorOk_byte hn
  stored _ _ h := h
  load _ _ _ _ h := h
  writeBack _ _ _ h := h
  popPend _ h := h

theorem State.SameData.windowOk (h : s.SameData t) (hs : s.WindowOk) : t.WindowOk := by
  change t.swb.wptr.toNat ≤ t.host.unpackedSize.toNat
  rw [h.swb, h.unpackedSize]
  exact hs

/-- A byte appended below the declared size (42_window.md R195). -/
theorem windowOk_emit {b : Byte} (hne : s.swb.wptr ≠ s.host.unpackedSize) (hs : s.WindowOk) : (s.emit b).WindowOk := by
  change (s.swb.wptr + 1).toNat ≤ s.host.unpackedSize.toNat
  change s.swb.wptr.toNat ≤ s.host.unpackedSize.toNat at hs
  bv_omega

/-- Every write to the window ends within the declared size. -/
theorem windowOk_stable : Stable (Keeps State.WindowOk) where
  toKeeping := keeps_keeping _
  scratch _ _ h _ := h.windowOk
  phase _ _ h := h.windowOk
  seek _ _ _ h := h
  align _ h := h
  table _ _ _ _ _ h := h
  emit _ _ hne := windowOk_emit hne
  enqueue _ _ _ _ _ _ h := h
  count _ _ h := h
  command _ _ _ _ h := h
  reset _ _ := Nat.zero_le _
  skipBytes _ _ _ h := h
  stored _ _ _ := Nat.le_refl _
  load _ _ _ _ h := h
  writeBack _ _ _ h := h
  popPend _ h := h

end Sys2Proof.Machine

open Sys2Proof Sys2Proof.Machine

/-- Settles O52: what the host wrote is the same after every primitive update, so after every step. -/
theorem stepKeepsArguments : Obligations.StepKeepsArguments := by
  unfold Obligations.StepKeepsArguments
  exact fun s t => sameArguments_stable.step

/-- Settles O54: each move of a cursor is checked against its bound where it is made. -/
theorem stepKeepsCursorsInBounds : Obligations.StepKeepsCursorsInBounds := by
  unfold Obligations.StepKeepsCursorsInBounds
  exact ⟨fun s t hs h => cursorOk_stable.step h hs, fun s t hs h => windowOk_stable.step h hs⟩
end

section
/-! What a filter record and a compiled program can be (43_unpack_engine.md R245 to R256, 44_fvm_program.md R280 to R286). -/

namespace Sys2Proof.Machine

variable {α β : Type}

/-! ### Compiled programs hold commands -/

/-- Every opcode number decodes to a command (30_encoding.md R113, R122). -/
theorem decodeBody_isCommand (op : Nat) (bits : List Bool) : (decodeBody op bits).1.isCommand = true := by
  unfold decodeBody
  split <;> rfl

theorem rewriteJump_isCommand (idx : Nat) (i : Instr) : (rewriteJump idx i).isCommand = i.isCommand := by
  cases i <;> rfl

theorem decodeCommands_isCommand (fuel idx : Nat) (bits : List Bool) :
    (decodeCommands fuel idx bits).all Instr.isCommand = true := by
  induction fuel generalizing idx bits with
  | zero => rfl
  | succ fuel ih =>
    unfold decodeCommands
    split
    · rfl
    · rw [List.all_cons, rewriteJump_isCommand, ih, Bool.and_true]
      exact decodeBody_isCommand _ _

/-- What a program of the registry is: commands only, and not empty (44_fvm_program.md R286). -/
def FilterProgram.Legal (p : FilterProgram) : Prop := p.cmds ≠ [] ∧ p.cmds.all Instr.isCommand = true

theorem compileBlob_legal {sigs : List Signature} {code : List Byte} {p : FilterProgram}
    (h : compileBlob sigs code = some p) : p.Legal := by
  unfold compileBlob at h
  split at h
  · cases h
  · split at h
    · cases h
      exact ⟨List.cons_ne_nil _ _, rfl⟩
    · cases h
      refine ⟨List.append_ne_nil_of_right_ne_nil _ (List.cons_ne_nil _ _), ?_⟩
      change (decodeCommands _ _ _ ++ [Instr.ret]).all _ = true
      rw [List.all_append, decodeCommands_isCommand]
      rfl

/-! ### The strict cursor -/

/-- A sequence of reads that succeeds: both parts did. -/
theorem rb_bind_eq_some {m : Rb α} {k : α → Rb β} {bits : List Bool} {r : β × List Bool}
    (h : (m >>= k) bits = some r) : ∃ a bits', m bits = some (a, bits') ∧ k a bits' = some r := by
  change (m bits).bind (fun p => k p.1 p.2) = some r at h
  obtain ⟨⟨a, bits'⟩, hm, hk⟩ := Option.bind_eq_some_iff.mp h
  exact ⟨a, bits', hm, hk⟩

theorem rb_pure_eq_some {a : α} {bits : List Bool} {r : α × List Bool} (h : (pure a : Rb α) bits = some r) :
    r = (a, bits) := (Option.some.inj h).symm

/-- A check that passes: its condition holds, and nothing has been read. -/
theorem rbCheck_eq_some {c : Bool} {bits : List Bool} {r : Unit × List Bool} (h : rbCheck c bits = some r) :
    c = true ∧ r = ((), bits) := by
  cases c with
  | true => exact ⟨rfl, rb_pure_eq_some h⟩
  | false => cases h

theorem readBytesWith_length {n : Nat} {bits rest : List Bool} {bs : List Byte}
    (h : readBytesWith rbRead n bits = some (bs, rest)) : bs.length = n := by
  induction n generalizing bits bs with
  | zero => cases rb_pure_eq_some h; rfl
  | succ n ih =>
    obtain ⟨b, _, -, h⟩ := rb_bind_eq_some h
    obtain ⟨cs, _, hcs, h⟩ := rb_bind_eq_some h
    cases rb_pure_eq_some h
    rw [List.length_cons, ih hcs]

/-! ### The fields of a record -/

theorem parseUserData_length {fb : Byte} {bits rest : List Bool} {ud : List Byte}
    (h : parseUserData fb bits = some (ud, rest)) : ud.length ≤ 0x1FC0 := by
  unfold parseUserData at h
  split at h
  · obtain ⟨n, _, -, h⟩ := rb_bind_eq_some h
    obtain ⟨_, _, hc, h⟩ := rb_bind_eq_some h
    obtain ⟨hn, -⟩ := rbCheck_eq_some hc
    rw [readBytesWith_length h]
    exact of_decide_eq_true hn
  · cases rb_pure_eq_some h
    exact Nat.zero_le _

theorem parseProgram_legal {sigs : List Signature} {bits rest : List Bool} {p : FilterProgram}
    (h : parseProgram sigs bits = some (p, rest)) : p.Legal := by
  obtain ⟨codeLen, _, -, h⟩ := rb_bind_eq_some h
  obtain ⟨_, _, -, h⟩ := rb_bind_eq_some h
  obtain ⟨code, _, -, h⟩ := rb_bind_eq_some h
  cases hc : compileBlob sigs code with
  | none => rw [hc] at h; cases h
  | some q =>
    rw [hc] at h
    cases rb_pure_eq_some h
    exact compileBlob_legal hc

/-- A record that defines a program gives a legal one, another record gives none. -/
theorem parseNewProgram_cases {isNew : Bool} {sigs : List Signature} {bits rest : List Bool} {q : Option FilterProgram}
    (h : parseNewProgram isNew sigs bits = some (q, rest)) :
    (isNew = true ∧ ∃ p, q = some p ∧ p.Legal) ∨ (isNew = false ∧ q = none) := by
  cases isNew with
  | true =>
    obtain ⟨p, _, hp, h⟩ := rb_bind_eq_some h
    cases rb_pure_eq_some h
    exact .inl ⟨rfl, p, rfl, parseProgram_legal hp⟩
  | false =>
    cases rb_pure_eq_some h
    exact .inr ⟨rfl, rfl⟩

/-- What a record that parses asks for: a new legal program behind the registry or one of the registry, and an invocation with
legal bounds on a range of the output (43_unpack_engine.md R247, R253, R255). -/
structure ParsedRecord.Legal (s : State) (r : ParsedRecord) : Prop where
  program : (∃ p, r.program = some p ∧ p.Legal ∧ r.inst.prog = s.registry.length) ∨
    (r.program = none ∧ r.inst.prog < s.registry.length)
  wf : r.inst.wf = true
  range : r.inst.blockStart.toNat + r.inst.blockLength.toNat ≤ s.host.unpackedSize.toNat

theorem parseRecord_legal {s : State} {fb : Byte} {bits rest : List Bool} {r : ParsedRecord}
    (h : parseRecord s fb bits = some (r, rest)) : r.Legal s := by
  unfold parseRecord at h
  obtain ⟨idx, _, -, h⟩ := rb_bind_eq_some h
  obtain ⟨_, _, hidx, h⟩ := rb_bind_eq_some h
  obtain ⟨_, _, -, h⟩ := rb_bind_eq_some h
  obtain ⟨off, _, -, h⟩ := rb_bind_eq_some h
  obtain ⟨blockLength, _, -, h⟩ := rb_bind_eq_some h
  obtain ⟨_, _, hlen, h⟩ := rb_bind_eq_some h
  obtain ⟨_, _, hrange, h⟩ := rb_bind_eq_some h
  obtain ⟨initR, _, -, h⟩ := rb_bind_eq_some h
  obtain ⟨q, _, hq, h⟩ := rb_bind_eq_some h
  obtain ⟨ud, _, hud, h⟩ := rb_bind_eq_some h
  cases rb_pure_eq_some h
  have hidx := of_decide_eq_true (rbCheck_eq_some hidx).1
  have hlen := of_decide_eq_true (rbCheck_eq_some hlen).1
  have hrange := of_decide_eq_true (rbCheck_eq_some hrange).1
  refine ⟨?_, ?_, ?_⟩
  · obtain ⟨hn, p, rfl, hp⟩ | ⟨hn, rfl⟩ := parseNewProgram_cases hq
    · exact .inl ⟨p, rfl, hp, of_decide_eq_true hn⟩
    · exact .inr ⟨rfl, lt_of_le_of_ne hidx (of_decide_eq_false hn)⟩
  · exact Bool.and_eq_true_iff.mpr ⟨decide_eq_true hlen, decide_eq_true (parseUserData_length hud)⟩
  · have hsize := s.host.unpackedSize.isLt
    dsimp only
    rw [BitVec.toNat_ofNat, Nat.mod_eq_of_lt (by omega)]
    exact hrange

end Sys2Proof.Machine
end

section
/-! The invariant of phases, queue, registry and tables, and the ceiling of the count: each part is kept by every step. -/

namespace Sys2Proof.Machine

variable {s t u : State}

/-! ### Tables -/

/-- The symbols of a table that `Build` gives are indices of the lengths, so below the alphabet's size (41_huffman.md R167). -/
theorem buildTable_symbols {n : Nat} {len : List (BitVec 4)} {h : HuffTable} (hb : buildTable n len = some h) :
    ∀ x ∈ h.decodeNum, x < n := by
  unfold buildTable at hb
  dsimp only at hb
  split at hb
  · cases hb
  · split at hb
    · cases hb
    · split at hb
      · cases hb
      · split at hb
        · cases hb
        · rename_i hlen
          cases hb
          intro x hx
          obtain ⟨k, -, hx⟩ := List.mem_flatMap.mp hx
          have hr := List.mem_range.mp (List.mem_filter.mp hx).1
          omega

theorem Tables.select_replace (T : Tables) (i j : TableId) (h : HuffTable) :
    (T.replace i h).select j = if j = i then h else T.select j := by
  cases i <;> cases j <;> rfl

theorem State.SameData.tablesOk (h : s.SameData t) (hs : s.TablesOk) : t.TablesOk := by
  unfold State.TablesOk
  rw [h.tables]
  exact hs

theorem tablesOk_replace {i : TableId} {len : List (BitVec 4)} {h : HuffTable}
    (hb : buildTable (tableSize i) len = some h) (hs : s.TablesOk) :
    State.TablesOk { s with tables := s.tables.replace i h } := by
  intro j hj x hx
  rw [Tables.select_replace] at hx
  split at hx
  · rename_i hji
    rw [hji]
    exact buildTable_symbols hb x hx
  · exact hs j hj x hx

theorem tablesOk_reset (s : State) : s.sessionReset.TablesOk := by
  intro j _ x hx
  cases j <;> cases hx

theorem tablesOk_stable : Stable (Keeps State.TablesOk) where
  toKeeping := keeps_keeping _
  scratch _ _ h _ := h.tablesOk
  phase _ _ h := h.tablesOk
  seek _ _ _ h := h
  align _ h := h
  table _ _ _ _ hb := tablesOk_replace hb
  emit _ _ _ h := h
  enqueue _ _ _ _ _ _ h := h
  count _ _ h := h
  command _ _ _ _ h := h
  reset s _ := tablesOk_reset s
  skipBytes _ _ _ h := h
  stored _ _ h := h
  load _ _ _ _ h := h
  writeBack _ _ _ h := h
  popPend _ h := h

/-! ### The count of commands -/

theorem State.SameData.opsOk (h : s.SameData t) (hs : s.OpsOk) : t.OpsOk := by
  change t.fvm.ops ≤ t.cfg.fvmMaxOps
  rw [h.fvm, h.cfg]
  exact hs

/-- The count moves below the ceiling only, and a load sets it to 0 (44_fvm_program.md R288, R291). -/
theorem opsOk_stable : Stable (Keeps State.OpsOk) where
  toKeeping := keeps_keeping _
  scratch _ _ h _ := h.opsOk
  phase _ _ h := h.opsOk
  seek _ _ _ h := h
  align _ h := h
  table _ _ _ _ _ h := h
  emit _ _ _ h := h
  enqueue _ _ _ _ _ _ h := h
  count _ hlt _ := hlt
  command s _ _ hm h := (command_ops hm s.fvm).trans_le h
  reset _ h := h
  skipBytes _ _ _ h := h
  stored _ _ h := h
  load _ _ _ _ _ := Nat.zero_le _
  writeBack _ _ _ h := h
  popPend _ h := h

/-! ### Registry and queue -/

/-- `QueueOk` but for the head of the queue of a running filter. -/
def State.QueueLegal (s : State) : Prop := (∀ e ∈ s.registry, e.prog.Legal) ∧ ∀ i ∈ s.pend, s.InstanceOk i

theorem State.SameData.queueLegal (h : s.SameData t) (hs : s.QueueLegal) : t.QueueLegal := by
  unfold State.QueueLegal State.InstanceOk
  rw [h.registry, h.pend, h.unpackedSize]
  exact hs

/-- A record writes the two words of an entry, or adds one entry behind the others (43_unpack_engine.md R256). -/
theorem registerRecord_legal {r : ParsedRecord} (hr : r.Legal s) (hs : ∀ e ∈ s.registry, e.prog.Legal) :
    (∀ e ∈ registerRecord s.registry r, e.prog.Legal) ∧ s.registry.length ≤ (registerRecord s.registry r).length ∧
      r.inst.prog < (registerRecord s.registry r).length := by
  unfold registerRecord
  obtain ⟨p, hp, hlegal, hprog⟩ | ⟨hp, hprog⟩ := hr.program
  · rw [hp, hprog]
    refine ⟨fun e he => ?_, by simp, by simp⟩
    obtain he | he := List.mem_append.mp he
    · exact hs e he
    · cases List.mem_singleton.mp he
      exact hlegal
  · rw [hp]
    refine ⟨fun e he => ?_, by simp, by simpa using hprog⟩
    obtain ⟨n, hn, rfl⟩ := List.mem_iff_getElem.mp he
    rw [List.length_modify] at hn
    rw [List.getElem_modify]
    split <;> exact hs s.registry[n] (List.getElem_mem hn)

theorem queueLegal_enqueue {r : ParsedRecord} (hr : r.Legal s) (hs : s.QueueLegal) : (s.enqueue r).QueueLegal := by
  obtain ⟨hreg, hpend⟩ := hs
  obtain ⟨hreg', hlen, hprog⟩ := registerRecord_legal hr hreg
  refine ⟨hreg', fun i hi => ?_⟩
  obtain hi | hi := List.mem_append.mp hi
  · obtain ⟨hp, hwf, hrange⟩ := hpend i hi
    exact ⟨hp.trans_le hlen, hwf, hrange⟩
  · cases List.mem_singleton.mp hi
    exact ⟨hprog, hr.wf, hr.range⟩

theorem queueLegal_stable : Stable (Keeps State.QueueLegal) where
  toKeeping := keeps_keeping _
  scratch _ _ h _ := h.queueLegal
  phase _ _ h := h.queueLegal
  seek _ _ _ h := h
  align _ h := h
  table _ _ _ _ _ h := h
  emit _ _ _ h := h
  enqueue _ _ _ _ _ hp := queueLegal_enqueue (parseRecord_legal hp)
  count _ _ h := h
  command _ _ _ _ h := h
  reset _ _ := ⟨fun _ he => (nomatch he), fun _ hi => (nomatch hi)⟩
  skipBytes _ _ _ h := h
  stored _ _ h := h
  load _ _ _ _ h := h
  writeBack _ _ _ h := h
  popPend _ h := ⟨h.1, fun i hi => h.2 i (List.mem_of_mem_drop hi)⟩

/-! ### Phases -/

/-- Between symbols or in a block header, without an error. -/
def State.Decoding (s : State) : Prop :=
  s.host.status = .busy ∧ s.host.errKind = 0 ∧ (s.ue = .readingTables ∨ s.ue = .decodingSymbols)

/-- The phases agree, and while a filter runs the head of the queue has its range produced. -/
def State.EngineOk (s : State) : Prop :=
  s.PhaseOk ∧ (s.ue = .applyFilter → (s.pend.head?.any fun i => s.ready i) = true)

theorem State.Decoding.engineOk (h : s.Decoding) : s.EngineOk := by
  obtain ⟨hst, herr, hue | hue⟩ := h <;>
    simp [State.EngineOk, State.PhaseOk, hst, herr, hue, UeState.active]

/-- An active engine has status BUSY and no error. -/
theorem State.EngineOk.busy (h : s.EngineOk) (ha : s.ue.active = true) : s.host.status = .busy ∧ s.host.errKind = 0 := by
  obtain ⟨⟨-, hbusy, -, -, herr, -⟩, -⟩ := h
  have hst := hbusy.mpr ha
  refine ⟨hst, Classical.byContradiction fun hne => ?_⟩
  have := herr.mpr hne
  rw [hst] at this
  cases this

theorem State.EngineOk.decoding (h : s.EngineOk) (hue : s.ue = .readingTables ∨ s.ue = .decodingSymbols) : s.Decoding := by
  obtain ⟨hst, herr⟩ := h.busy (by obtain hue | hue := hue <;> rw [hue] <;> rfl)
  exact ⟨hst, herr, hue⟩

theorem ErrKind.code_ne_zero (k : ErrKind) : k.code ≠ 0 := by cases k <;> decide

/-- A raise ends the session in status ERROR whatever it left behind (60_exceptions.md R415). -/
theorem raise_engineOk (s : State) (k : ErrKind) : (s.raise k).EngineOk := by
  simpa [State.EngineOk, State.PhaseOk, State.raise, UeState.active] using ErrKind.code_ne_zero k

theorem complete_engineOk (h : s.host.errKind = 0) : s.complete.EngineOk := by
  simp [State.EngineOk, State.PhaseOk, State.complete, UeState.active, h]

theorem engineOk_of_runOp {m : Op Unit} (hm : m s = .ok () t → t.EngineOk) (h : runOp m s = .next t) : t.EngineOk := by
  obtain h | ⟨k, u, -, rfl⟩ := runOp_eq_next h
  · exact hm h
  · exact raise_engineOk u k

theorem State.SteadyPhase.decoding (h : s.SteadyPhase t) (hs : s.Decoding) : t.Decoding := by
  obtain ⟨hst, herr, hue⟩ := hs
  refine ⟨h.status.trans hst, h.errKind.trans herr, ?_⟩
  obtain h' | h' := h.ue
  · rw [h']; exact hue
  · exact h'

/-- The symbol loop and the block header stay between symbols. -/
theorem decoding_steady : Steady (Keeps State.Decoding) where
  toKeeping := keeps_keeping _
  scratch _ _ _ h := h.decoding
  seek _ _ _ h := h
  align _ h := h
  table _ _ _ _ _ h := h
  emit _ _ _ h := h
  enqueue _ _ _ _ _ _ h := h

theorem decoding_of_ok {α : Type} {m : Op α} {a : α} (hm : Within (Keeps State.Decoding) m) (h : m s = .ok a t)
    (hs : s.Decoding) : t.Decoding := after_ok h ▸ hm s hs

/-! ### EOB with its drain -/

/-- The run of a program reaches the FVM only (20_memory.md R61). -/
theorem sameButFvm_runClosed : RunClosed State.SameButFvm where
  refl _ := rfl
  trans s t u h1 h2 := by
    unfold State.SameButFvm at *
    rw [h2, h1]
  count _ _ := rfl
  command _ _ _ _ := rfl

/-- Write-back succeeds into the state Drain was called from (43_unpack_engine.md R262). -/
theorem applyFinish_eq_ok {i : FilterInstance} {a : Unit} (h : applyFinish i s = .ok a t) :
    t.host = s.host ∧ t.ue = s.ret ∧ t.pend = s.pend := by
  rw [applyFinish_run] at h
  split at h <;> cases h
  exact ⟨rfl, rfl, rfl⟩

/-- An Apply that succeeds comes back to the state it was called from. -/
theorem applyInstance_eq_ok {i : FilterInstance} {a : Unit} (h : applyInstance i s = .ok a t) :
    t.host = s.host ∧ t.ue = s.ue := by
  obtain ⟨p, s1, hp, h1⟩ := op_bind_eq_ok h
  have hs1 := lookupProgram_eq_ok hp
  obtain ⟨_, s2, hstart, h2⟩ := op_bind_eq_ok h1
  obtain ⟨-, q, hs2⟩ := applyStart_eq_ok hstart
  obtain ⟨_, s3, hrun, h3⟩ := op_bind_eq_ok (m := fvmRun p s2.cfg.fvmMaxOps) h2
  obtain ⟨hhost, hue, -⟩ := applyFinish_eq_ok h3
  have hfvm := sameButFvm_runClosed.fvmRun p s2.cfg.fvmMaxOps s2 (by rw [hs2]; exact (Nat.zero_add _).le)
  rw [after_ok hrun] at hfvm
  rw [hhost, hue, hfvm, hs2, hs1]
  exact ⟨rfl, rfl⟩

/-- One round of the drain: the head is applied and removed where its range is produced (43_unpack_engine.md R259). -/
theorem drainLoop_cons {i : FilterInstance} {l : List FilterInstance} (n : Nat) (h : s.pend = i :: l) :
    drainLoop (n + 1) s = if s.ready i = true then
        (applyInstance i >>= fun _ => modify State.popPend >>= fun _ => drainLoop n) s
      else .ok () s := by
  simp only [drainLoop, op_run_bind, op_run_get, h]
  split <;> simp only [op_run_bind, op_run_pure]

theorem drainLoop_nil (n : Nat) (h : s.pend = []) : drainLoop n s = .ok () s := by
  cases n with
  | zero => rfl
  | succ n => simp only [drainLoop, op_run_bind, op_run_get, h, op_run_pure]

theorem drainLoop_decoding {n : Nat} {a : Unit} (h : drainLoop n s = .ok a t) (hs : s.Decoding) : t.Decoding := by
  induction n generalizing s with
  | zero => cases h; exact hs
  | succ n ih =>
    cases hp : s.pend with
    | nil => rw [drainLoop_nil _ hp] at h; cases h; exact hs
    | cons i l =>
      rw [drainLoop_cons n hp] at h
      split at h
      · obtain ⟨_, s1, happly, h1⟩ := op_bind_eq_ok h
        obtain ⟨_, s2, hpop, h2⟩ := op_bind_eq_ok h1
        cases hpop
        obtain ⟨hhost, hue⟩ := applyInstance_eq_ok happly
        refine ih h2 ?_
        unfold State.Decoding at hs ⊢
        rw [State.popPend_host, State.popPend_ue, hhost, hue]
        exact hs
      · cases h
        exact hs

/-- An EOB that succeeds leads to the next block header, or completes the session (43_unpack_engine.md R235). -/
theorem eobOp_engineOk {a : Unit} (h : eobOp s = .ok a t) (hs : s.Decoding) : t.EngineOk := by
  obtain ⟨c0, s1, hc0, h1⟩ := op_bind_eq_ok h
  have hd1 := decoding_of_ok (decoding_steady.bcRead 1) hc0 hs
  by_cases hc : c0 = 1
  · rw [if_pos hc] at h1
    cases h1
    exact State.Decoding.engineOk ⟨hd1.1, hd1.2.1, .inl rfl⟩
  · rw [if_neg hc] at h1
    obtain ⟨_, s2, hc1, h2⟩ := op_bind_eq_ok h1
    have hd2 := decoding_of_ok (decoding_steady.bcRead 1) hc1 hd1
    obtain ⟨_, s3, hdrain, h3⟩ := op_bind_eq_ok h2
    obtain ⟨_, _, hget, hloop⟩ := op_bind_eq_ok hdrain
    cases hget
    obtain ⟨-, herr, -⟩ := drainLoop_decoding hloop hd2
    obtain ⟨_, _, hget, h4⟩ := op_bind_eq_ok h3
    cases hget
    rw [op_run_ite] at h4
    split at h4 <;> cases h4
    exact complete_engineOk herr

theorem ldOp_engineOk {m : Op Unit} (hm : m = eobOp ∨ LdOp m) (hs : s.Decoding) (h : runOp m s = .next t) :
    t.EngineOk := by
  refine engineOk_of_runOp (fun hok => ?_) h
  obtain rfl | hm := hm
  · exact eobOp_engineOk hok hs
  · exact (decoding_of_ok (decoding_steady.ldOp hm) hok hs).engineOk

/-! ### The actions of the sequencer -/

theorem enterMethod_run (s : State) : enterMethod s =
    if s.host.method = 0 then .ok () { s with ue := .stored }
    else if s.host.method = 2 then .error (.refuse .methodV20) s
    else if s.host.method = 3 then .ok () { s with ue := .readingTables }
    else .error (.raise .unsupportedMethod) s := by
  simp only [enterMethod, op_run_bind, op_run_get, op_run_ite, op_run_set, op_run_throw, op_run_raise]

theorem startOp_run (s : State) : startOp s =
    if s.host.status = .busy then .ok () { s with host := { s.host with ctrlStart := false } }
    else enterMethod s.sessionReset := by
  simp only [startOp, op_run_bind, op_run_get, op_run_ite, op_run_set]

/-- The start of a session: the entry state of the method, or the raise for an unsupported one (43_unpack_engine.md R216). -/
theorem startOp_engineOk {a : Unit} (h : startOp s = .ok a t) (hs : s.EngineOk) : t.EngineOk := by
  rw [startOp_run] at h
  split at h
  · cases h
    exact hs
  · rw [enterMethod_run] at h
    split at h
    · cases h
      simp [State.EngineOk, State.PhaseOk, State.sessionReset, UeState.active]
    · split at h
      · cases h
      · split at h
        · cases h
          exact State.Decoding.engineOk ⟨rfl, rfl, .inl rfl⟩
        · cases h

theorem storedOp_engineOk {a : Unit} (h : storedOp s = .ok a t) (herr : s.host.errKind = 0) : t.EngineOk := by
  obtain ⟨_, _, hget, h1⟩ := op_bind_eq_ok h
  cases hget
  obtain ⟨bs, u, hread, h2⟩ := op_bind_eq_ok h1
  have hu : u.host = s.host := by
    obtain ⟨-, e⟩ | ⟨-, e⟩ := bcReadBytes_cases s.host.unpackedSize.toNat s <;> rw [e] at hread <;> cases hread
    rfl
  cases h2
  exact complete_engineOk (hu ▸ herr)

theorem finishHead_decoding {i : FilterInstance} {a : Unit} (h : finishHead i s = .ok a t) (hs : s.EngineOk)
    (hue : s.ue = .applyFilter) : t.Decoding := by
  obtain ⟨hst, herr⟩ := hs.busy (by rw [hue]; rfl)
  obtain ⟨⟨-, -, -, -, -, hret⟩, -⟩ := hs
  obtain ⟨_, u, hfin, h1⟩ := op_bind_eq_ok h
  obtain ⟨hhost, hu, -⟩ := applyFinish_eq_ok hfin
  cases h1
  unfold State.Decoding
  rw [State.popPend_host, State.popPend_ue, hhost, hu]
  exact ⟨hst, herr, hret hue⟩

theorem applyStart_engineOk {i : FilterInstance} {a : Unit} (h : applyStart i s = .ok a t) (hs : s.Decoding)
    (hhead : s.pend.head? = some i) : t.EngineOk := by
  obtain ⟨hready, p, rfl⟩ := applyStart_eq_ok h
  obtain ⟨hst, herr, hue⟩ := hs
  refine ⟨?_, fun _ => ?_⟩
  · simp [State.PhaseOk, hst, herr, UeState.active, hue]
  · change (s.pend.head?.any fun j => s.ready j) = true
    rw [hhead]
    exact hready

theorem act_engineOk {m : Op Unit} (hp : PlanCase s (.act m)) (hs : s.EngineOk) (h : m s = .ok () t) : t.EngineOk := by
  cases hp with
  | start => exact startOp_engineOk h hs
  | rest => cases h; exact hs
  | stored hue => exact storedOp_engineOk h (hs.busy (by rw [hue]; rfl)).2
  | complete hue => cases h; exact complete_engineOk (hs.decoding hue).2.1
  | apply i hue hhead => exact applyStart_engineOk h (hs.decoding hue) hhead
  | lost => cases h
  | finish i hue => exact (finishHead_decoding h hs hue).engineOk

/-- What a fetch gave, executed: a symbol from between symbols, a command on the FVM alone. -/
theorem execute_engineOk {m : Op Instr} {i : Instr} (hp : PlanCase s (.fetch m)) (hs : s.EngineOk) (hm : m s = .ok i u)
    (h : exec i u = .next t) : t.EngineOk := by
  cases hp with
  | header hue =>
    cases hm
    refine engineOk_of_runOp (fun hok => ?_) h
    exact (decoding_of_ok decoding_steady.blockHeaderOp hok (hs.decoding (.inl hue))).engineOk
  | lengths hue =>
    obtain ⟨x, hsym, hx⟩ := fetchMd_ok hm
    obtain ⟨op, hop, he⟩ := exec_mdInstr hx
    have hu := decoding_of_ok (decoding_steady.decodeSym .md) hsym (hs.decoding (.inl hue))
    exact engineOk_of_runOp (fun hok => (decoding_of_ok (decoding_steady.mdOp hop) hok hu).engineOk) (he u ▸ h)
  | symbol hue =>
    obtain ⟨x, hsym, hx⟩ := fetchLd_ok hm
    obtain ⟨op, hop, he⟩ := exec_ldInstr hx
    have hu := decoding_of_ok (decoding_steady.decodeSym .ld) hsym (hs.decoding (.inr hue))
    exact ldOp_engineOk hop hu (he u ▸ h)
  | command c hue =>
    obtain ⟨rfl, hc, rfl⟩ := fetchCommand_ok hm
    obtain ⟨f, e⟩ | ⟨k, f, e⟩ := exec_command_cases hc { s with fvm := s.fvm.countOp } <;> rw [e] at h <;> cases h
    · exact hs
    · exact raise_engineOk _ k

theorem step_engineOk (h : step s = .next t) (hs : s.EngineOk) : t.EngineOk := by
  obtain ⟨m, hp, hm⟩ | ⟨m, i, u, hp, hm, he⟩ | ⟨m, k, u, -, -, rfl⟩ := step_cases h
  · exact engineOk_of_runOp (act_engineOk hp hs) hm
  · exact execute_engineOk hp hs hm he
  · exact raise_engineOk u k

/-- The invariant, in the parts that are kept one by one. -/
theorem inv_iff : s.Inv ↔ s.EngineOk ∧ s.QueueLegal ∧ s.TablesOk :=
  ⟨fun ⟨hphase, ⟨hreg, hpend, hhead⟩, htab⟩ => ⟨⟨hphase, hhead⟩, ⟨hreg, hpend⟩, htab⟩,
    fun ⟨⟨hphase, hhead⟩, ⟨hreg, hpend⟩, htab⟩ => ⟨hphase, ⟨hreg, hpend, hhead⟩, htab⟩⟩

end Sys2Proof.Machine

open Sys2Proof Sys2Proof.Machine

/-- Settles O56: queue, tables and count are kept by every primitive update, the phases by every case of the plan. -/
theorem stepKeepsInvariant : Obligations.StepKeepsInvariant := by
  unfold Obligations.StepKeepsInvariant
  refine ⟨fun s t hs h => ?_, fun s t hs h => opsOk_stable.step h hs⟩
  obtain ⟨hengine, hqueue, htables⟩ := inv_iff.mp hs
  exact inv_iff.mpr ⟨step_engineOk h hengine, queueLegal_stable.step h hqueue, tablesOk_stable.step h htables⟩
end

section
/-! Power-on, the start of a session, and the host's reads and writes. -/

namespace Sys2Proof.Machine

variable {s : State}

/-- A step that finds a pending start takes it. -/
theorem step_ctrlStart (h : s.host.ctrlStart = true) : step s = runOp startOp s := by
  have hplan : plan s = .act startOp := if_pos h
  rw [step, hplan]

/-- The start while a session runs: only the pending bit is dropped (70_reset_and_hazards.md R442). -/
theorem startOp_busy (h : s.host.status = .busy) :
    startOp s = .ok () { s with host := { s.host with ctrlStart := false } } := by
  rw [startOp_run, if_pos h]

/-- The start of a session: the reset, then the entry of the method (10_state.md R52). -/
theorem startOp_idle (h : s.host.status ≠ .busy) : startOp s = enterMethod s.sessionReset := by
  rw [startOp_run, if_neg h]

theorem enterMethod_stored (h : s.host.method = 0) : enterMethod s = .ok () { s with ue := .stored } := by
  rw [enterMethod_run, if_pos h]

theorem enterMethod_v20 (h : s.host.method = 2) : enterMethod s = .error (.refuse .methodV20) s := by
  rw [enterMethod_run, if_neg (by rw [h]; decide), if_pos h]

theorem enterMethod_v29 (h : s.host.method = 3) : enterMethod s = .ok () { s with ue := .readingTables } := by
  rw [enterMethod_run, if_neg (by rw [h]; decide), if_neg (by rw [h]; decide), if_pos h]

theorem enterMethod_unsupported (h : s.host.method = 1 ∨ 4 ≤ s.host.method.toNat) :
    enterMethod s = .error (.raise .unsupportedMethod) s := by
  have hne : ∀ n : BitVec 8, n ≠ 1 → n.toNat < 4 → s.host.method ≠ n := by
    rintro n h1 h4 rfl
    obtain h | h := h
    · exact h1 h
    · omega
  rw [enterMethod_run, if_neg (hne 0 (by decide) (by decide)), if_neg (hne 2 (by decide) (by decide)),
    if_neg (hne 3 (by decide) (by decide))]

/-! ### The host's side -/

theorem Memory.length_readRange (m : Memory) (a n : Nat) : (m.readRange a n).length = n := by
  induction n generalizing a with
  | zero => rfl
  | succ n ih => rw [Memory.readRange, List.length_cons, ih]

/-- A byte of a stored byte string reads as stored. -/
theorem Memory.read_writeRange_mem {m : Memory} (h : m.wf = true) (a k : Nat) {bs : List Byte} (hk : k < bs.length) :
    (m.writeRange a bs).read (a + k) = bs.getD k 0 := by
  rw [Memory.read_writeRange h, if_pos (Nat.le_add_right a k), Nat.add_sub_cancel_left, List.getD_eq_getElem?_getD,
    List.getElem?_eq_getElem hk, Option.getD_some, Option.getD_some]

/-- A byte outside a stored byte string reads as before. -/
theorem Memory.read_writeRange_other {m : Memory} (h : m.wf = true) {a x : Nat} {bs : List Byte}
    (hx : x < a ∨ a + bs.length ≤ x) : (m.writeRange a bs).read x = m.read x := by
  rw [Memory.read_writeRange h]
  split
  · rw [List.getElem?_eq_none (by omega), Option.getD_none]
  · rfl

/-- A session is open: one runs, or its start is pending (entry 17). -/
theorem State.sessionOpen_iff : s.sessionOpen = true ↔ s.host.ctrlStart = true ∨ s.host.status = .busy := by
  simp [State.sessionOpen]

theorem State.hostWrite_busy {sizes : List Nat} {h : HostPort}
    (hb : s.host.ctrlStart = true ∨ s.host.status = .busy) : s.hostWrite sizes h = .error .hostBusy :=
  if_pos (State.sessionOpen_iff.mpr hb)

theorem State.hostWrite_tooLarge {sizes : List Nat} {h : HostPort}
    (hb : ¬ (s.host.ctrlStart = true ∨ s.host.status = .busy)) (hn : ∃ n ∈ sizes, 0xFFFFFFFF < n) :
    s.hostWrite sizes h = .error .aboveSizeMax := by
  have hclosed := mt State.sessionOpen_iff.mp hb
  obtain ⟨n, hmem, hlt⟩ := hn
  obtain ⟨ho, -⟩ | ⟨-, -, e⟩ | ⟨-, hall, -⟩ := s.hostWrite_cases sizes h
  · exact absurd ho hclosed
  · exact e
  · exact absurd (hall n hmem) (Nat.not_le_of_lt hlt)

theorem State.hostWrite_made {sizes : List Nat} {h : HostPort}
    (hb : ¬ (s.host.ctrlStart = true ∨ s.host.status = .busy)) (hn : ∀ n ∈ sizes, n ≤ 0xFFFFFFFF) :
    s.hostWrite sizes h = .ok { s with host := h } := by
  have hclosed := mt State.sessionOpen_iff.mp hb
  obtain ⟨ho, -⟩ | ⟨-, ⟨n, hmem, hlt⟩, -⟩ | ⟨-, -, e⟩ := s.hostWrite_cases sizes h
  · exact absurd ho hclosed
  · exact absurd (hn n hmem) (Nat.not_le_of_lt hlt)
  · exact e

/-- A length within `SIZE_MAX` is stored whole (00_scope.md R9). -/
theorem toNat_ofNat_of_le_sizeMax {n : Nat} (h : n ≤ 0xFFFFFFFF) : (BitVec.ofNat 32 n).toNat = n := by
  rw [BitVec.toNat_ofNat]
  exact Nat.mod_eq_of_lt (by omega)

/-- A byte string stored in an empty memory reads back. -/
theorem Memory.read_writeRange_nil {bs : List Byte} {a : Nat} (ha : a < bs.length) :
    (Memory.writeRange [] 0 bs).read a = bs.getD a 0 := by
  simpa using Memory.read_writeRange_mem (m := []) rfl 0 a ha

end Sys2Proof.Machine

open Sys2Proof Sys2Proof.Machine

/-- Settles O51: the power-on state holds the values of R53 and meets every invariant. -/
theorem powerOnMeetsInvariants : Obligations.PowerOnMeetsInvariants := by
  unfold Obligations.PowerOnMeetsInvariants
  have hinv : State.reset.Inv := inv_iff.mpr
    ⟨by simp [State.EngineOk, State.PhaseOk, State.reset, UeState.active],
      ⟨fun _ he => (nomatch he), fun _ hi => (nomatch hi)⟩, fun i _ x hx => by cases i <;> cases hx⟩
  exact ⟨⟨rfl, rfl, rfl, rfl⟩, ⟨rfl, rfl, rfl, rfl⟩, Nat.le_refl _, Nat.le_refl _, fun _ hc => (nomatch hc),
    Nat.zero_le _, hinv⟩

/-- Settles O48: the pending start is the step's plan, and each method enters as R216 and R217 say. -/
theorem sessionStart : Obligations.SessionStart := by
  unfold Obligations.SessionStart
  intro s hc h r
  rw [step_ctrlStart hc]
  refine ⟨fun hb => runOp_ok (startOp_busy hb), fun hb => ⟨fun hm => ?_, fun hm => ?_, fun hm => ?_, fun hm => ?_⟩⟩
  · exact runOp_ok ((startOp_idle hb).trans (enterMethod_stored (s := s.sessionReset) hm))
  · exact runOp_ok ((startOp_idle hb).trans (enterMethod_v29 (s := s.sessionReset) hm))
  · exact runOp_refuse ((startOp_idle hb).trans (enterMethod_v20 (s := s.sessionReset) hm))
  · exact runOp_raise ((startOp_idle hb).trans (enterMethod_unsupported (s := s.sessionReset) hm))

/-- Settles O60: the guards of the host's read and writes, and what a write that is made leaves. -/
theorem hostReadsAndWritesAreGuarded : Obligations.HostReadsAndWritesAreGuarded := by
  unfold Obligations.HostReadsAndWritesAreGuarded
  intro s busy
  refine ⟨fun hd hc => ⟨if_pos ⟨hd, hc⟩, Memory.length_readRange _ _ _⟩, fun hn => ?_, ?_, ?_⟩
  · refine if_neg fun ⟨hd, hc⟩ => hn.elim (· hd) fun hc' => ?_
    rw [hc] at hc'
    cases hc'
  · intro method size payload hist
    refine ⟨State.hostWrite_busy, fun hb hsize => ?_, fun hb hp hh => ?_⟩
    · exact State.hostWrite_tooLarge hb (hsize.elim (⟨_, .head _, ·⟩) (⟨_, .tail _ (.head _), ·⟩))
    · exact ⟨_, State.hostWrite_made hb (List.forall_mem_cons.mpr ⟨hp, List.forall_mem_singleton.mpr hh⟩), rfl, rfl,
        toNat_ofNat_of_le_sizeMax hp, toNat_ofNat_of_le_sizeMax hh, fun _ => Memory.read_writeRange_nil,
        fun _ => Memory.read_writeRange_nil, rfl, rfl, rfl, rfl⟩
  · intro out hwf n
    refine ⟨State.hostWrite_busy, fun hb hsize => ?_, fun hb hsize => ?_⟩
    · exact State.hostWrite_tooLarge hb ⟨_, .head _, hsize⟩
    · exact ⟨_, State.hostWrite_made hb (List.forall_mem_singleton.mpr hsize),
        fun k hk => Memory.read_writeRange_mem hwf n k hk, fun a ha => Memory.read_writeRange_other hwf ha⟩
end

section
/-! FVM memory by its bytes: what the reads give and what the writes leave at every address (20_memory.md R72, R73). -/

namespace Sys2Proof.Machine

variable {m : Memory}

/-- The byte at a distance from an address, the distance added before the reduction (20_memory.md R72). -/
theorem memIndex_add (a : Word) (i : Nat) : memIndex (a + BitVec.ofNat 32 i) = (a.toNat + i) % vmMemSize := by
  rw [memIndex, BitVec.toNat_add, BitVec.toNat_ofNat, vmMemSize]
  omega

/-- Distances below the size of `Mem` lead to different bytes. -/
theorem memIndex_add_inj {a i j : Nat} (hi : i < vmMemSize) (hj : j < vmMemSize) :
    (a + i) % vmMemSize = (a + j) % vmMemSize ↔ i = j :=
  ⟨fun h => (Nat.ModEq.add_left_cancel' a h).eq_of_lt_of_lt hi hj, fun h => by rw [h]⟩

theorem toNat_append_eq_add {v w : Nat} (x : BitVec v) (y : BitVec w) :
    (x ++ y).toNat = x.toNat * 2 ^ w + y.toNat := by
  rw [BitVec.toNat_append, ← Nat.shiftLeft_add_eq_or_of_lt y.isLt, Nat.shiftLeft_eq]

/-- A word read, by its four bytes. -/
theorem memRead32_eq (m : Memory) (a : Word) :
    memRead32 m a = m.read ((a.toNat + 3) % vmMemSize) ++ m.read ((a.toNat + 2) % vmMemSize) ++
      m.read ((a.toNat + 1) % vmMemSize) ++ m.read ((a.toNat + 0) % vmMemSize) := by
  rw [← memIndex_add, ← memIndex_add, ← memIndex_add]
  rfl

/-- What a word write leaves, the last of its four stores first. -/
theorem read_memWrite32 (h : m.wf = true) (a v : Word) (x : Nat) :
    (memWrite32 m a v).read x =
      if x = (a.toNat + 3) % vmMemSize then wordByte v 3
      else if x = (a.toNat + 2) % vmMemSize then wordByte v 2
      else if x = (a.toNat + 1) % vmMemSize then wordByte v 1
      else if x = (a.toNat + 0) % vmMemSize then wordByte v 0
      else m.read x := by
  have h0 := memWrite8_wf h a (wordByte v 0)
  have h1 := memWrite8_wf h0 (a + 1) (wordByte v 1)
  have h2 := memWrite8_wf h1 (a + 2) (wordByte v 2)
  rw [← memIndex_add, ← memIndex_add, ← memIndex_add]
  exact (Memory.read_write h2 ..).trans <| if_congr .rfl rfl <| (Memory.read_write h1 ..).trans <| if_congr .rfl rfl <|
    (Memory.read_write h0 ..).trans <| if_congr .rfl rfl <| Memory.read_write h ..

/-- Each of the four bytes of a word write. -/
theorem read_memWrite32_byte (h : m.wf = true) (a v : Word) {i : Nat} (hi : i < 4) :
    (memWrite32 m a v).read ((a.toNat + i) % vmMemSize) = wordByte v i := by
  have hinj : ∀ j < 4, ((a.toNat + i) % vmMemSize = (a.toNat + j) % vmMemSize ↔ i = j) := fun j hj =>
    memIndex_add_inj (hi.trans (by decide)) (hj.trans (by decide))
  simp only [read_memWrite32 h, hinj 3 (by decide), hinj 2 (by decide), hinj 1 (by decide), hinj 0 (by decide)]
  interval_cases i <;> rfl

end Sys2Proof.Machine

open Sys2Proof Sys2Proof.Machine

/-- Settles O1: a word is its four bytes, each at its own reduced address. -/
theorem memReadIsLittleEndianAndWraps : Obligations.MemReadIsLittleEndianAndWraps := by
  unfold Obligations.MemReadIsLittleEndianAndWraps
  intro m a
  refine ⟨rfl, ?_⟩
  rw [memRead32_eq, toNat_append_eq_add, toNat_append_eq_add, toNat_append_eq_add, vmMemSize, Nat.add_zero a.toNat]
  omega

/-- Settles O2: each store sets its own byte, and the four bytes of a word are different ones. -/
theorem memWriteSetsItsBytesOnly : Obligations.MemWriteSetsItsBytesOnly := by
  unfold Obligations.MemWriteSetsItsBytesOnly
  intro m a v x h
  refine ⟨?_, fun i hi hx => ?_, fun hx => memWrite32_read_other h a v x ?_⟩
  · have hbyte : v.setWidth 8 = v.extractLsb' 0 8 := by rw [BitVec.setWidth_eq_extractLsb' (by decide)]
    rw [hbyte]
    exact Memory.read_write h _ _ _
  · rw [hx]
    exact read_memWrite32_byte h a v hi
  · exact ⟨hx 0 (by decide), memIndex_add a 1 ▸ hx 1 (by decide), memIndex_add a 2 ▸ hx 2 (by decide),
      memIndex_add a 3 ▸ hx 3 (by decide)⟩
end

section
/-! What every store to a byte memory keeps: a property that holds of the empty memory and survives a byte stored within the
0x40000 bytes of `Mem` is kept by the load of an execution, by every command and by every value of NATIVE. -/

namespace Sys2Proof.Machine

variable {P : Memory → Prop} {m : Memory}

/-- A property of the empty memory that a byte stored within `Mem` keeps (20_memory.md R66). -/
structure StoreClosed (P : Memory → Prop) : Prop where
  nil : P []
  write : ∀ m a v, a < vmMemSize → P m → P (m.write a v)

theorem memIndex_lt (a : Word) : memIndex a < vmMemSize := Nat.mod_lt _ (by decide)

/-- The canonical form is such a property. -/
theorem wf_storeClosed : StoreClosed fun m => m.wf = true where
  nil := rfl
  write _ a v _ h := Memory.wf_write h a v

/-- A byte a memory lists after a write is the one written or was listed before. -/
theorem Memory.mem_write {a : Nat} {v : Byte} {c : Host.Cell} (h : c ∈ m.write a v) : c = (a, v) ∨ c ∈ m := by
  induction m with
  | nil =>
    unfold Memory.write at h
    split at h
    · cases h
    · exact .inl (List.mem_singleton.mp h)
  | cons d m ih =>
    obtain ⟨k, b⟩ := d
    unfold Memory.write at h
    split at h
    · split at h
      · exact .inr h
      · exact List.mem_cons.mp h
    · split at h
      · split at h
        · exact .inr (.tail _ h)
        · exact (List.mem_cons.mp h).imp_right (.tail _)
      · obtain rfl | h := List.mem_cons.mp h
        · exact .inr (.head _)
        · exact (ih h).imp_right (.tail _)

/-- To list no address outside the 0x40000 bytes of `Mem` is such a property. -/
theorem inSpace_storeClosed : StoreClosed fun m => ∀ c ∈ m, c.1 < vmMemSize where
  nil _ h := nomatch h
  write _ _ _ ha h c hc := (Memory.mem_write hc).elim (· ▸ ha) (h c)

namespace StoreClosed
variable (hP : StoreClosed P)
include hP

/-! ### Accesses of the FVM -/

theorem memWrite8 {a : Word} {v : Byte} (h : P m) : P (memWrite8 m a v) := hP.write m _ v (memIndex_lt a) h

theorem memWrite32 {a v : Word} (h : P m) : P (memWrite32 m a v) :=
  hP.memWrite8 (hP.memWrite8 (hP.memWrite8 (hP.memWrite8 h)))

theorem memWriteBytes {a : Nat} {bs : List Byte} (h : P m) : P (memWriteBytes m a bs) := by
  induction bs generalizing m a with
  | nil => exact h
  | cons b bs ih => exact ih (hP.write m _ b (Nat.mod_lt _ (by decide)) h)

theorem store {f : Fvm} {op : Operand} {bm : Bool} {ea v : Word} (h : P f.mem) : P (f.store op bm ea v).mem := by
  rw [Fvm.store_mem]
  split
  · unfold memWriteW
    split
    · exact hP.memWrite8 h
    · exact hP.memWrite32 h
  · exact h

theorem pushaMem {f : Fvm} {sp : Word} (h : P m) : P (pushaMem f sp m) :=
  List.foldlRecOn _ _ h fun _ h _ _ => hP.memWrite32 h

/-- The load of an execution starts from the empty memory (44_fvm_program.md R287). -/
theorem loadMem (p : FilterProgram) (i : FilterInstance) (d : List Byte) : P (loadMem p i d) :=
  have hregs := List.foldlRecOn (List.finRange 7) _ (hP.memWriteBytes hP.nil) fun _ h _ _ => hP.memWrite32 h
  hP.memWriteBytes (hP.memWriteBytes (hP.memWrite32 (hP.memWrite32 (hP.memWrite32 (hP.memWrite32 (hP.memWrite32 hregs))))))

/-! ### The default native transforms (47_fvm_control.md R392 to R398): each store is reduced, or below `2 n` -/

theorem e8Loop {dual : Bool} {n fuel p : Nat} {fo : Word} (h : P m) : P (e8Loop dual n fo fuel p m) := by
  induction fuel generalizing p m with
  | zero => exact h
  | succ fuel ih =>
    unfold Machine.e8Loop
    dsimp only
    split
    · split
      · refine ih ?_
        split
        · split
          · exact h
          · exact hP.memWrite32 h
        · split
          · exact hP.memWrite32 h
          · exact h
      · exact ih h
    · exact h

theorem e8Transform {dual : Bool} {n : Nat} {fo : Word} (h : P m) : P (e8Transform dual n fo m) := by
  unfold Machine.e8Transform
  split
  · exact h
  · exact hP.e8Loop h

theorem itaniumSlot {fo : Word} {p i : Nat} (h : P m) : P (itaniumSlot fo p i m) := by
  unfold Machine.itaniumSlot
  dsimp only
  split
  · exact hP.memWrite32 h
  · exact h

theorem itaniumBundle {fo : Word} {p : Nat} (h : P m) : P (itaniumBundle fo p m) := by
  unfold Machine.itaniumBundle
  dsimp only
  split
  · exact h
  · refine List.foldlRecOn _ _ h fun m h i _ => ?_
    split
    · exact hP.itaniumSlot h
    · exact h

theorem itaniumLoop {n fuel p : Nat} {fo : Word} (h : P m) : P (itaniumLoop n fuel p fo m) := by
  induction fuel generalizing p fo m with
  | zero => exact h
  | succ fuel ih =>
    unfold Machine.itaniumLoop
    split
    · exact ih (hP.itaniumBundle h)
    · exact h

theorem itaniumTransform {n : Nat} {fo : Word} (h : P m) : P (itaniumTransform n fo m) := by
  unfold Machine.itaniumTransform
  split
  · exact h
  · exact hP.itaniumLoop h

/-- DELTA stores below `2 n`. -/
theorem deltaChannel {n ch fuel d src : Nat} {prev : Byte} (hn : n < 0x1E000) (h : P m) :
    P (deltaChannel n ch fuel d prev (m, src)).1 := by
  induction fuel generalizing d prev m src with
  | zero => exact h
  | succ fuel ih =>
    unfold Machine.deltaChannel
    split
    · exact ih (hP.write _ _ _ (by unfold vmMemSize; omega) h)
    · exact h

theorem deltaTransform {n ch : Nat} (h : P m) : P (deltaTransform n ch m) := by
  unfold Machine.deltaTransform
  split
  · exact h
  · exact List.foldlRecOn (motive := fun r : Memory × Nat => P r.1) _ _ (hP.memWrite32 h) fun _ h _ _ =>
      hP.deltaChannel (Nat.lt_of_not_le ‹_›) h

/-- RGB stores below `2 n`. -/
theorem rgbChannel {n width fuel i src : Nat} {prev : Byte} (hn : n < 0x1E000) (h : P m) :
    P (rgbChannel n width fuel i prev (m, src)).1 := by
  induction fuel generalizing i prev m src with
  | zero => exact h
  | succ fuel ih =>
    unfold Machine.rgbChannel
    split
    · exact ih (hP.write _ _ _ (by unfold vmMemSize; omega) h)
    · exact h

theorem rgbGreen {n fuel i : Nat} (hn : n < 0x1E000) (h : P m) : P (rgbGreen n fuel i m) := by
  induction fuel generalizing i m with
  | zero => exact h
  | succ fuel ih =>
    unfold Machine.rgbGreen
    split
    · have hred := hP.write m (n + i) (m.read (n + i) + m.read (n + i + 1)) (by unfold vmMemSize; omega) h
      exact ih (hP.write _ _ _ (by unfold vmMemSize; omega) hred)
    · exact h

theorem rgbTransform {n : Nat} {r0 posr : Word} (h : P m) : P (rgbTransform n r0 posr m) := by
  unfold Machine.rgbTransform
  dsimp only
  split
  · exact h
  · have hn : n < 0x1E000 := by omega
    exact hP.rgbGreen hn (List.foldlRecOn (motive := fun r : Memory × Nat => P r.1) _ _ (hP.memWrite32 h) fun _ h _ _ =>
      hP.rgbChannel hn h)

/-- AUDIO stores below `2 n`. -/
theorem audioChannel {n ch fuel i src : Nat} {a : AudioPredictor} (hn : n < 0x1E000) (h : P m) :
    P (audioChannel n ch fuel i a (m, src)).1 := by
  induction fuel generalizing i a m src with
  | zero => exact h
  | succ fuel ih =>
    unfold Machine.audioChannel
    split
    · exact ih (hP.write _ _ _ (by unfold vmMemSize; omega) h)
    · exact h

theorem audioTransform {n ch : Nat} (h : P m) : P (audioTransform n ch m) := by
  unfold Machine.audioTransform
  split
  · exact h
  · have hn : n < 0x1E000 := by omega
    exact List.foldlRecOn (motive := fun r : Memory × Nat => P r.1) _ _ (hP.memWrite32 h) fun _ h _ _ =>
      hP.audioChannel hn h

/-- UPCASE stores at most one byte behind the data for each byte it has read, so below `2 n`. -/
theorem upcaseLoop {n fuel src dst : Nat} (hn : n < 0x1E000) (hd : dst ≤ n + src) (h : P m) :
    P (upcaseLoop n fuel src dst m).1 := by
  induction fuel generalizing src dst m with
  | zero => exact h
  | succ fuel ih =>
    unfold Machine.upcaseLoop
    split
    · have hdst : dst < vmMemSize := by unfold vmMemSize; omega
      dsimp only
      split <;> exact ih (by omega) (hP.write _ _ _ hdst h)
    · exact h

theorem upcaseTransform {n : Nat} (h : P m) : P (upcaseTransform n m) := by
  unfold Machine.upcaseTransform
  split
  · exact h
  · exact hP.memWrite32 (hP.memWrite32 (hP.upcaseLoop (Nat.lt_of_not_le ‹_›) (Nat.le_refl _) h))

/-- A value given for NATIVE builds the 0x40000 bytes anew (47_fvm_control.md R391). -/
theorem nativeApply (c : NativeChoice) (k : StdKind) (f : Fvm) (h : P f.mem) : P (nativeApply c k f).mem := by
  cases c with
  | given name => exact hP.memWriteBytes hP.nil
  | default =>
    cases k with
    | e8 => exact hP.e8Transform h
    | e8e9 => exact hP.e8Transform h
    | itanium => exact hP.itaniumTransform h
    | delta => exact hP.deltaTransform h
    | rgb => exact hP.rgbTransform h
    | audio => exact hP.audioTransform h
    | upcase => exact hP.upcaseTransform h

/-! ### Every command and every step -/

theorem fvmStable : FvmStable fun f g => P f.mem → P g.mem where
  refl _ h := h
  trans _ _ _ h1 h2 h := h2 (h1 h)
  store _ _ _ _ _ := hP.store
  putWord _ _ _ := hP.memWrite32
  pusha f sp h := by
    rw [Fvm.setMem_mem]
    exact hP.pushaMem h
  regs _ _ h := h
  setIp _ _ h := h
  finish _ h := h
  native := hP.nativeApply

theorem command {nc : NativeChoice} {i : Instr} {op : FvmOp Unit} (hm : commandOp nc i = some op) (f : Fvm) (h : P f.mem) :
    P (fvmAfter op f).mem :=
  command_within hP.fvmStable hm (fun _ _ _ _ => id) (fun _ _ _ => id) f h

theorem fvmMem_stable : Stable (Keeps fun s => P s.fvm.mem) where
  toKeeping := keeps_keeping _
  scratch _ _ hd _ := (congrArg (fun f : Fvm => P f.mem) hd.fvm).mpr
  phase _ _ hd := (congrArg (fun f : Fvm => P f.mem) hd.fvm).mpr
  seek _ _ _ h := h
  align _ h := h
  table _ _ _ _ _ h := h
  emit _ _ _ h := h
  enqueue _ _ _ _ _ _ h := h
  count _ _ h := h
  command s _ _ hm := hP.command hm s.fvm
  reset _ h := h
  skipBytes _ _ _ h := h
  stored _ _ h := h
  load _ p i d _ := hP.loadMem p i d
  writeBack _ _ _ h := h
  popPend _ h := h

end StoreClosed

/-- Every write to the window keeps its canonical form. -/
theorem windowWf_stable : Stable (Keeps fun s => s.swb.mem.wf = true) where
  toKeeping := keeps_keeping _
  scratch _ _ hd _ := (congrArg (fun w : Window => w.mem.wf = true) hd.swb).mpr
  phase _ _ hd := (congrArg (fun w : Window => w.mem.wf = true) hd.swb).mpr
  seek _ _ _ h := h
  align _ h := h
  table _ _ _ _ _ h := h
  emit _ b _ h := Memory.wf_write h _ b
  enqueue _ _ _ _ _ _ h := h
  count _ _ h := h
  command _ _ _ _ h := h
  reset _ _ := rfl
  skipBytes _ _ _ h := h
  stored _ bs h := Memory.wf_writeRange h 0 bs
  load _ _ _ _ h := h
  writeBack _ a bs h := Memory.wf_writeRange h a bs
  popPend _ h := h

end Sys2Proof.Machine

open Sys2Proof Sys2Proof.Machine

/-- Settles O53: payload and history stay what the host wrote, every write to the window and to `Mem` is a canonical one. -/
theorem stepKeepsMemoriesCanonical : Obligations.StepKeepsMemoriesCanonical := by
  unfold Obligations.StepKeepsMemoriesCanonical
  intro s t ⟨hpayload, hhist, hwindow, hmem⟩ h
  obtain ⟨-, -, -, -, epayload, -, ehist⟩ := sameArguments_stable.step h
  exact ⟨epayload ▸ hpayload, ehist ▸ hhist, windowWf_stable.step h hwindow, wf_storeClosed.fvmMem_stable.step h hmem⟩

/-- Settles O55: every store to `Mem` is below 0x40000, by reduction of the address or by the bounds of a transform. -/
theorem stepKeepsMemInSpace : Obligations.StepKeepsMemInSpace := by
  unfold Obligations.StepKeepsMemInSpace
  exact fun s t hs h => inSpace_storeClosed.fvmMem_stable.step h hs
end

section
/-! The isolation of the commands: the only error they raise is CorruptStream, and what they do to the FVM is a function of the
FVM (20_memory.md R61, 60_exceptions.md R422). -/

namespace Sys2Proof.Machine

variable {α β : Type} {a b op : Operand} {bm : Bool} {ea : Word}

/-- Every error of `m` is CorruptStream. -/
def RaisesCorrupt (m : FvmOp α) : Prop := ∀ f k g, m f = .error k g → k = .corruptStream

theorem RaisesCorrupt.of_ok {m : FvmOp α} (h : ∀ f, ∃ x g, m f = .ok x g) : RaisesCorrupt m := by
  intro f k g he
  obtain ⟨x, g', hok⟩ := h f
  rw [hok] at he
  cases he

/-- An operation on a destination: CorruptStream where it is an immediate, no error elsewhere (44_fvm_program.md R298). -/
theorem RaisesCorrupt.of_dest {m : FvmOp α} (hw : isImmForm op = false → ∀ f, ∃ x g, m f = .ok x g)
    (hi : isImmForm op = true → ∀ f, ∃ g, m f = .error .corruptStream g) : RaisesCorrupt m := by
  intro f k g he
  cases hop : isImmForm op with
  | false => exact RaisesCorrupt.of_ok (hw hop) f k g he
  | true =>
    obtain ⟨g', herr⟩ := hi hop f
    rw [herr] at he
    cases he
    rfl

theorem RaisesCorrupt.bind {m : FvmOp α} {k : α → FvmOp β} (hm : RaisesCorrupt m) (hk : ∀ x, RaisesCorrupt (k x)) :
    RaisesCorrupt (m >>= k) := by
  intro f e g h
  rw [fvm_run_bind] at h
  cases hf : m f with
  | ok x f' =>
    rw [hf] at h
    exact hk x f' e g h
  | error e' f' =>
    rw [hf] at h
    cases h
    exact hm f e g hf

theorem raisesCorrupt_get : RaisesCorrupt (get : FvmOp Fvm) := .of_ok fun _ => ⟨_, _, rfl⟩
theorem raisesCorrupt_modify (h : Fvm → Fvm) : RaisesCorrupt (modify h : FvmOp PUnit) := .of_ok fun _ => ⟨_, _, rfl⟩
theorem raisesCorrupt_eaOf : RaisesCorrupt (eaOf op) := .of_ok fun _ => ⟨_, _, rfl⟩
theorem raisesCorrupt_opRead : RaisesCorrupt (opRead op bm ea) := .of_ok fun _ => ⟨_, _, rfl⟩
theorem raisesCorrupt_advanceIp : RaisesCorrupt advanceIp := raisesCorrupt_modify _

theorem raisesCorrupt_opWrite {v : Word} : RaisesCorrupt (opWrite op bm ea v) :=
  .of_dest (fun h _ => ⟨_, _, opWrite_ok h⟩) fun h _ => ⟨_, opWrite_imm h⟩

/-- The end of the writing commands. -/
theorem raisesCorrupt_write_advance {v : Word} : RaisesCorrupt (opWrite op bm ea v >>= fun _ => advanceIp) :=
  raisesCorrupt_opWrite.bind fun _ => raisesCorrupt_advanceIp

theorem raisesCorrupt_aluOp {result flags : Word → Word → Word → Word} : RaisesCorrupt (aluOp bm a b result flags) :=
  .of_dest (fun h _ => ⟨_, _, aluOp_ok h⟩) fun h _ => ⟨_, aluOp_imm h⟩

theorem raisesCorrupt_compareOp {flags : Word → Word → Word} : RaisesCorrupt (compareOp bm a b flags) :=
  .of_ok fun _ => ⟨_, _, compareOp_ok⟩

theorem raisesCorrupt_jumpIf {cond : Word → Bool} : RaisesCorrupt (jumpIf cond a) := .of_ok fun _ => ⟨_, _, jumpIf_ok⟩

/-- The common form of MOV, MOVZX and MOVSX. -/
theorem raisesCorrupt_move {rd wr : Bool} {g : Word → Word} : RaisesCorrupt (do
    let a1 ← eaOf a
    let a2 ← eaOf b
    let v ← opRead b rd a2
    opWrite a wr a1 (g v)
    advanceIp) :=
  raisesCorrupt_eaOf.bind fun _ => raisesCorrupt_eaOf.bind fun _ => raisesCorrupt_opRead.bind fun _ =>
    raisesCorrupt_write_advance

theorem raisesCorrupt_opXchg : RaisesCorrupt (opXchg bm a b) :=
  raisesCorrupt_eaOf.bind fun _ => raisesCorrupt_eaOf.bind fun _ => raisesCorrupt_opRead.bind fun _ =>
    raisesCorrupt_opRead.bind fun _ => raisesCorrupt_opWrite.bind fun _ => raisesCorrupt_write_advance

theorem raisesCorrupt_opPop : RaisesCorrupt (opPop a) :=
  raisesCorrupt_eaOf.bind fun _ => raisesCorrupt_get.bind fun _ => raisesCorrupt_opWrite.bind fun _ =>
    (raisesCorrupt_modify _).bind fun _ => raisesCorrupt_advanceIp

/-- The common form of INC and DEC: the write precedes the flags. -/
theorem raisesCorrupt_incDec {r flags : Word → Word} : RaisesCorrupt (do
    let a1 ← eaOf a
    let v1 ← opRead a bm a1
    opWrite a bm a1 (r v1)
    putFlags (flags v1)
    advanceIp) :=
  raisesCorrupt_eaOf.bind fun _ => raisesCorrupt_opRead.bind fun _ => raisesCorrupt_opWrite.bind fun _ =>
    (raisesCorrupt_modify _).bind fun _ => raisesCorrupt_advanceIp

theorem raisesCorrupt_opNeg : RaisesCorrupt (opNeg bm a) :=
  raisesCorrupt_eaOf.bind fun _ => raisesCorrupt_opRead.bind fun _ => (raisesCorrupt_modify _).bind fun _ =>
    raisesCorrupt_write_advance

theorem raisesCorrupt_opBnot : RaisesCorrupt (opBnot bm a) :=
  raisesCorrupt_eaOf.bind fun _ => raisesCorrupt_opRead.bind fun _ => raisesCorrupt_write_advance

theorem raisesCorrupt_opMul : RaisesCorrupt (opMul bm a b) :=
  raisesCorrupt_eaOf.bind fun _ => raisesCorrupt_eaOf.bind fun _ => raisesCorrupt_opRead.bind fun _ =>
    raisesCorrupt_opRead.bind fun _ => raisesCorrupt_write_advance

theorem raisesCorrupt_opDiv : RaisesCorrupt (opDiv bm a b) :=
  raisesCorrupt_eaOf.bind fun _ => raisesCorrupt_eaOf.bind fun _ => raisesCorrupt_opRead.bind fun _ => by
    split
    · exact raisesCorrupt_advanceIp
    · exact raisesCorrupt_opRead.bind fun _ => raisesCorrupt_write_advance

theorem raisesCorrupt_opRet : RaisesCorrupt opRet :=
  raisesCorrupt_get.bind fun _ => by
    split <;> exact raisesCorrupt_modify _

/-- The only error a command raises is CorruptStream (60_exceptions.md R422). -/
theorem command_raisesCorrupt {nc : NativeChoice} {i : Instr} {m : FvmOp Unit} (h : commandOp nc i = some m) :
    RaisesCorrupt m := by
  cases i <;> cases h
  case mov | movzx | movsx => exact raisesCorrupt_move
  case add | sub | bxor | band | bor | shl | shr | sar | adc | sbb => exact raisesCorrupt_aluOp
  case cmp | test => exact raisesCorrupt_compareOp
  case jmp | jz | jnz | js | jns | jb | jbe | ja | jae => exact raisesCorrupt_jumpIf
  case inc | dec => exact raisesCorrupt_incDec
  case neg => exact raisesCorrupt_opNeg
  case bnot => exact raisesCorrupt_opBnot
  case mul => exact raisesCorrupt_opMul
  case div => exact raisesCorrupt_opDiv
  case xchg => exact raisesCorrupt_opXchg
  case pop => exact raisesCorrupt_opPop
  case ret => exact raisesCorrupt_opRet
  case push | call | pusha | popa | pushf | popf | print | standard => exact .of_ok fun _ => ⟨_, _, rfl⟩

end Sys2Proof.Machine

open Sys2Proof Sys2Proof.Machine

/-- Settles O14: a command is an operation on the FVM alone, and its only error is the write of an immediate. -/
theorem commandsReachTheFvmOnly : Obligations.CommandsReachTheFvmOnly := by
  unfold Obligations.CommandsReachTheFvmOnly
  intro i s hi
  obtain ⟨m, hm⟩ := Option.isSome_iff_exists.mp ((commandOp_isSome s.cfg.native i).trans hi)
  rw [exec_command hm]
  obtain ⟨f, -, h⟩ | ⟨k, f, herr, h⟩ := runFvm_cases m s
  · exact ⟨_, h, .inl rfl⟩
  · obtain rfl := command_raisesCorrupt hm s.fvm k f herr
    exact ⟨_, h, .inr ⟨{ s with fvm := f }, rfl, rfl⟩⟩

/-- Settles O15: the FVM afterwards is what the command's operation leaves of the FVM before. -/
theorem commandsReadTheFvmOnly : Obligations.CommandsReadTheFvmOnly := by
  unfold Obligations.CommandsReadTheFvmOnly
  intro i s s' t t' hi hfvm hnative ht ht'
  obtain ⟨m, hm⟩ := Option.isSome_iff_exists.mp ((commandOp_isSome s.cfg.native i).trans hi)
  rw [exec_command_fvm hm ht, exec_command_fvm (hnative ▸ hm) ht', hfvm]
end

section
/-! The start of an execution and its result (44_fvm_program.md R287, R288, R292): `Mem` is loaded by three byte strings, the
data, the words of the global sub-region and the user data with the static data behind it. -/

namespace Sys2Proof.Machine

variable {m : Memory} {v : Word} {ws : List Word} {i : FilterInstance} {d : List Byte}

/-! ### Words as byte strings -/

/-- The four bytes of a word, little-endian (20_memory.md R73). -/
def wordBytes (v : Word) : List Byte := [wordByte v 0, wordByte v 1, wordByte v 2, wordByte v 3]

/-- A word is put together from its bytes. -/
theorem wordByte_append (v : Word) : wordByte v 3 ++ wordByte v 2 ++ wordByte v 1 ++ wordByte v 0 = v := by
  apply BitVec.eq_of_toNat_eq
  simp only [toNat_append_eq_add, wordByte, BitVec.extractLsb'_toNat, Nat.shiftRight_eq_div_pow]
  omega

theorem length_flatMap_wordBytes (ws : List Word) : (ws.flatMap wordBytes).length = 4 * ws.length := by
  induction ws with
  | nil => rfl
  | cons w ws ih =>
    rw [List.flatMap_cons, List.length_append, ih, List.length_cons, Nat.mul_succ, Nat.add_comm]
    rfl

/-- Byte `j` of word `k` of a list of words. -/
theorem getD_flatMap_wordBytes {k j : Nat} (hk : k < ws.length) (hj : j < 4) :
    (ws.flatMap wordBytes).getD (4 * k + j) 0 = wordByte ws[k] j := by
  induction ws generalizing k with
  | nil => cases hk
  | cons w ws ih =>
    rw [List.flatMap_cons]
    cases k with
    | zero =>
      rw [List.getD_append _ _ _ _ (by simpa [wordBytes] using hj)]
      interval_cases j <;> rfl
    | succ k =>
      rw [List.getD_append_right _ _ _ _ (by simp [wordBytes]; omega),
        show 4 * (k + 1) + j - (wordBytes w).length = 4 * k + j by simp [wordBytes]; omega]
      exact ih (Nat.lt_of_succ_lt_succ hk)

/-! ### Stores that do not wrap are stores of byte strings -/

theorem Memory.writeRange_append (m : Memory) (a : Nat) (bs cs : List Byte) :
    m.writeRange a (bs ++ cs) = (m.writeRange a bs).writeRange (a + bs.length) cs := by
  induction bs generalizing m a with
  | nil => rfl
  | cons b bs ih =>
    rw [List.cons_append, Memory.writeRange, ih, Memory.writeRange, List.length_cons, Nat.add_assoc, Nat.add_comm 1]

theorem memWriteBytes_eq_writeRange {a : Nat} {bs : List Byte} (h : a + bs.length ≤ vmMemSize) :
    memWriteBytes m a bs = m.writeRange a bs := by
  induction bs generalizing m a with
  | nil => rfl
  | cons b bs ih =>
    rw [List.length_cons] at h
    rw [memWriteBytes, Memory.writeRange, Nat.mod_eq_of_lt (by omega), ih (by omega)]

/-- Words stored one behind the other from an address on. -/
def memWriteWords (m : Memory) (a : Word) : List Word → Memory
  | [] => m
  | w :: ws => memWriteWords (memWrite32 m a w) (a + 4) ws

theorem memWriteWords_append (m : Memory) (a : Word) (ws us : List Word) :
    memWriteWords m a (ws ++ us) = memWriteWords (memWriteWords m a ws) (a + 4 * BitVec.ofNat 32 ws.length) us := by
  induction ws generalizing m a with
  | nil => simp [memWriteWords]
  | cons w ws ih =>
    rw [List.cons_append, memWriteWords, ih, memWriteWords, List.length_cons]
    congr 1
    bv_omega

theorem memWriteWords_ofFn {n : Nat} (m : Memory) (a : Word) (f : Fin n → Word) :
    memWriteWords m a (List.ofFn f) =
      (List.finRange n).foldl (fun m k => memWrite32 m (a + 4 * BitVec.ofNat 32 k.val) (f k)) m := by
  induction n generalizing m a with
  | zero => rfl
  | succ n ih =>
    rw [List.ofFn_succ, memWriteWords, ih, List.finRange_succ, List.foldl_cons, List.foldl_map]
    have haddr : ∀ k : Fin n, a + 4 + 4 * BitVec.ofNat 32 k.val = a + 4 * BitVec.ofNat 32 k.succ.val := fun k => by
      rw [Fin.val_succ]
      bv_omega
    simp only [haddr]
    congr 1
    simp

theorem memWrite32_eq_writeRange {a : Word} (h : a.toNat + 4 ≤ vmMemSize) :
    memWrite32 m a v = m.writeRange a.toNat (wordBytes v) := by
  have h0 : memIndex a = a.toNat := Nat.mod_eq_of_lt (by omega)
  have h1 : memIndex (a + 1) = a.toNat + 1 := (memIndex_add a 1).trans (Nat.mod_eq_of_lt (by omega))
  have h2 : memIndex (a + 2) = a.toNat + 2 := (memIndex_add a 2).trans (Nat.mod_eq_of_lt (by omega))
  have h3 : memIndex (a + 3) = a.toNat + 3 := (memIndex_add a 3).trans (Nat.mod_eq_of_lt (by omega))
  simp only [memWrite32, memWrite8, h0, h1, h2, h3]
  rfl

theorem memWriteWords_eq_writeRange {a : Word} (h : a.toNat + 4 * ws.length ≤ vmMemSize) :
    memWriteWords m a ws = m.writeRange a.toNat (ws.flatMap wordBytes) := by
  induction ws generalizing m a with
  | nil => rfl
  | cons w ws ih =>
    rw [List.length_cons] at h
    have hnext : (a + 4).toNat = a.toNat + 4 := by
      unfold vmMemSize at h
      bv_omega
    rw [memWriteWords, ih (by omega), memWrite32_eq_writeRange (by omega), List.flatMap_cons, Memory.writeRange_append,
      hnext]
    rfl

/-- A word read where it does not wrap. -/
theorem memRead32_eq_of_le {a : Word} (h : a.toNat + 4 ≤ vmMemSize) (m : Memory) :
    memRead32 m a = m.read (a.toNat + 3) ++ m.read (a.toNat + 2) ++ m.read (a.toNat + 1) ++ m.read (a.toNat + 0) := by
  rw [memRead32_eq, Nat.mod_eq_of_lt (by omega), Nat.mod_eq_of_lt (by omega), Nat.mod_eq_of_lt (by omega),
    Nat.mod_eq_of_lt (by omega)]

/-- A word of a stored list of words reads as stored. -/
theorem memRead32_writeRange_words (hm : m.wf = true) {b k : Nat} {a : Word} (hk : k < ws.length)
    (ha : a.toNat = b + 4 * k) (h : a.toNat + 4 ≤ vmMemSize) :
    memRead32 (m.writeRange b (ws.flatMap wordBytes)) a = ws[k] := by
  have hbyte : ∀ j < 4, (m.writeRange b (ws.flatMap wordBytes)).read (a.toNat + j) = wordByte ws[k] j := fun j hj => by
    rw [ha, Nat.add_assoc, Memory.read_writeRange_mem hm _ _ (by rw [length_flatMap_wordBytes]; omega),
      getD_flatMap_wordBytes hk hj]
  rw [memRead32_eq_of_le h, hbyte 3 (by decide), hbyte 2 (by decide), hbyte 1 (by decide), hbyte 0 (by decide),
    wordByte_append]

/-- A word below a stored byte string reads as before. -/
theorem memRead32_writeRange_below (hm : m.wf = true) {b : Nat} {a : Word} {bs : List Byte} (hb : a.toNat + 4 ≤ b)
    (h : a.toNat + 4 ≤ vmMemSize) : memRead32 (m.writeRange b bs) a = memRead32 m a := by
  have hbyte : ∀ j < 4, (m.writeRange b bs).read (a.toNat + j) = m.read (a.toNat + j) := fun j hj =>
    Memory.read_writeRange_other hm (.inl (by omega))
  rw [memRead32_eq_of_le h, memRead32_eq_of_le h, hbyte 3 (by decide), hbyte 2 (by decide), hbyte 1 (by decide),
    hbyte 0 (by decide)]

/-! ### The load -/

/-- The words of the global sub-region at the start of an execution (20_memory.md R68). -/
def globalWords (i : FilterInstance) : List Word :=
  List.ofFn i.initR.get ++ [i.blockLength, 0, i.blockStart, 0, i.execCount]

/-- The bytes behind the fixed part of the global sub-region: the user data, then the static data as far as the sub-region
reaches (44_fvm_program.md R287). -/
def globalBytes (p : FilterProgram) (i : FilterInstance) : List Byte :=
  i.userData ++ p.staticData.take (0x1FC0 - i.userData.length)

/-- `Mem` with the data and the words of the global sub-region. -/
def loadWords (i : FilterInstance) (d : List Byte) : Memory :=
  (Memory.writeRange [] 0 d).writeRange 0x3C000 ((globalWords i).flatMap wordBytes)

theorem length_globalBytes (p : FilterProgram) (hu : i.userData.length ≤ 0x1FC0) :
    (globalBytes p i).length = min (i.userData.length + p.staticData.length) 0x1FC0 := by
  simp only [globalBytes, List.length_append, List.length_take]
  omega

/-- The load as three byte strings. -/
theorem loadMem_eq (p : FilterProgram) (hd : d.length ≤ 0x3C000) (hu : i.userData.length ≤ 0x1FC0) :
    loadMem p i d = (loadWords i d).writeRange 0x3C040 (globalBytes p i) := by
  have hload : loadMem p i d = memWriteBytes (memWriteBytes (memWriteWords (memWriteBytes [] 0 d) 0x3C000 (globalWords i))
      0x3C040 i.userData) (0x3C040 + i.userData.length) (p.staticData.take (0x1FC0 - i.userData.length)) := by
    rw [globalWords, memWriteWords_append, memWriteWords_ofFn]
    rfl
  rw [hload, memWriteBytes_eq_writeRange (bs := d) (by unfold vmMemSize; omega),
    memWriteWords_eq_writeRange (a := 0x3C000) (ws := globalWords i) (by decide : 0x3C000 + 4 * 12 ≤ vmMemSize),
    memWriteBytes_eq_writeRange (bs := i.userData) (by unfold vmMemSize; omega),
    memWriteBytes_eq_writeRange (by rw [List.length_take]; unfold vmMemSize; omega), globalBytes, Memory.writeRange_append]
  rfl

theorem loadWords_wf (i : FilterInstance) (d : List Byte) : (loadWords i d).wf = true :=
  Memory.wf_writeRange (Memory.wf_writeRange rfl 0 d) _ _

/-- The data and the bytes between the parts, below the user data. -/
theorem read_loadWords (x : Nat) (i : FilterInstance) (hx : x < 0x3C000 ∨ 0x3C030 ≤ x) :
    (loadWords i d).read x = (Memory.writeRange [] 0 d).read x :=
  Memory.read_writeRange_other (Memory.wf_writeRange rfl 0 d) (by rw [length_flatMap_wordBytes]; exact hx)

/-- A byte of the loaded `Mem` outside the user data and the static data. -/
theorem read_loadMem_other (p : FilterProgram) (hd : d.length ≤ 0x3C000) (hu : i.userData.length ≤ 0x1FC0) {x : Nat}
    (hx : x < 0x3C040 ∨ 0x3C040 + (globalBytes p i).length ≤ x) : (loadMem p i d).read x = (loadWords i d).read x := by
  rw [loadMem_eq p hd hu, Memory.read_writeRange_other (loadWords_wf i d) hx]

/-- A byte of the user data or the static data. -/
theorem read_loadMem_global (p : FilterProgram) (hd : d.length ≤ 0x3C000) (hu : i.userData.length ≤ 0x1FC0) {k : Nat}
    (hk : k < (globalBytes p i).length) : (loadMem p i d).read (0x3C040 + k) = (globalBytes p i).getD k 0 := by
  rw [loadMem_eq p hd hu, Memory.read_writeRange_mem (loadWords_wf i d) _ _ hk]

/-- A word of the global sub-region. -/
theorem memRead32_loadMem (p : FilterProgram) (hd : d.length ≤ 0x3C000) (hu : i.userData.length ≤ 0x1FC0) {a : Word}
    (k : Fin 12) (ha : a.toNat = 0x3C000 + 4 * k.val) : memRead32 (loadMem p i d) a = (globalWords i)[k.val] := by
  have hk := k.isLt
  rw [loadMem_eq p hd hu, memRead32_writeRange_below (loadWords_wf i d) (by omega) (by unfold vmMemSize; omega)]
  exact memRead32_writeRange_words (Memory.wf_writeRange rfl 0 d) hk ha (by unfold vmMemSize; omega)

/-- The registers at the start of an execution (44_fvm_program.md R288). -/
theorem reg_loadFvm (p : FilterProgram) (i : FilterInstance) (d : List Byte) (k : Fin 8) :
    (loadFvm p i d).reg k =
      if k.val = 7 then 0x40000 else if k.val = 6 then i.blockStart else i.initR.toList.getD k.val 0 := by
  fin_cases k <;> simp [loadFvm, Fvm.reg, loadRegs, Vector.get_eq_getElem]

/-! ### The result -/

theorem Memory.getD_readRange (m : Memory) (a : Nat) {n k : Nat} (hk : k < n) :
    (m.readRange a n).getD k 0 = m.read (a + k) := by
  induction n generalizing a k with
  | zero => cases hk
  | succ n ih =>
    cases k with
    | zero => rfl
    | succ k =>
      rw [Memory.readRange, List.getD_cons_succ, ih _ (Nat.lt_of_succ_lt_succ hk)]
      congr 1
      omega

/-- The low 18 bits of a word (44_fvm_program.md R292). -/
theorem toNat_and_low (w : Word) : (w &&& 0x3FFFF).toNat = w.toNat % vmMemSize := by
  rw [BitVec.toNat_and]
  exact Nat.and_two_pow_sub_one_eq_mod _ 18

/-- The result of an execution, the two words taken by their low 18 bits (44_fvm_program.md R292). -/
theorem extractResult_eq (m : Memory) :
    let pos := (memRead32 m 0x3C020 &&& 0x3FFFF).toNat
    let size := (memRead32 m 0x3C01C &&& 0x3FFFF).toNat
    extractResult m = if 0x40000 ≤ pos + size then [] else m.readRange pos size := by
  dsimp only
  rw [toNat_and_low, toNat_and_low]
  rfl

end Sys2Proof.Machine

open Sys2Proof Sys2Proof.Machine

/-- Settles O43: the load is three byte strings at fixed places, the result a byte string of `Mem`. -/
theorem executionStartAndResult : Obligations.ExecutionStartAndResult := by
  unfold Obligations.ExecutionStartAndResult
  refine ⟨fun p i d hwf hlen => ?_, fun m => ?_⟩
  · obtain ⟨hblock, hu⟩ := Bool.and_eq_true_iff.mp hwf
    have hu : i.userData.length ≤ 0x1FC0 := of_decide_eq_true hu
    have hd : d.length ≤ 0x3C000 := hlen.trans_le (of_decide_eq_true hblock)
    have hglobal := length_globalBytes p hu
    refine ⟨reg_loadFvm p i d, rfl, rfl, rfl, rfl, wf_storeClosed.loadMem p i d, fun k hk => ?_, fun k => ?_,
      memRead32_loadMem p hd hu 7 rfl, memRead32_loadMem p hd hu 8 rfl, memRead32_loadMem p hd hu 9 rfl,
      memRead32_loadMem p hd hu 10 rfl, memRead32_loadMem p hd hu 11 rfl, fun k hk => ?_, fun k hk hg => ?_,
      fun x hx => ?_⟩
    · refine (read_loadMem_other p hd hu (.inl (by omega))).trans ((read_loadWords k i (.inl (by omega))).trans ?_)
      exact Memory.read_writeRange_nil hk
    · refine (memRead32_loadMem p hd hu (k.castLE (by decide)) ?_).trans ?_
      · have hk := k.isLt
        rw [Fin.val_castLE]
        bv_omega
      · exact (List.getElem_append_left (by simp)).trans (List.getElem_ofFn _)
    · refine (read_loadMem_global p hd hu (by omega)).trans ?_
      exact List.getD_append _ _ _ _ hk
    · rw [Nat.add_assoc]
      refine (read_loadMem_global p hd hu (by omega)).trans ?_
      rw [globalBytes, List.getD_append_right _ _ _ _ (Nat.le_add_right _ _), Nat.add_sub_cancel_left,
        List.getD_eq_getElem?_getD, List.getElem?_take_of_lt (by omega), List.getD_eq_getElem?_getD]
    · refine (read_loadMem_other p hd hu (by omega)).trans ((read_loadWords x i (by omega)).trans ?_)
      exact Memory.read_writeRange_other rfl (.inr (by omega))
  · have hresult := extractResult_eq m
    refine ⟨fun h => hresult.trans (if_pos h), fun h => ?_⟩
    rw [hresult.trans (if_neg (Nat.not_le_of_lt h))]
    exact ⟨Memory.length_readRange _ _ _, fun k hk => Memory.getD_readRange _ _ hk⟩
end

section
/-! The encodings of 30_encoding.md decode back: fields, numbers, operands, commands. -/

namespace Sys2Proof

/-! ### Fields -/

/-- A field reads back modulo its range (00_scope.md R13). -/
theorem fieldZ_fieldBits (n v : Nat) (rest : List Bool) : fieldZ n (fieldBits n v ++ rest) = v % 2 ^ n := by
  induction n with
  | zero => rw [pow_zero, Nat.mod_one]; rfl
  | succ n ih =>
    rw [fieldBits, List.cons_append, fieldZ, ih, Nat.mod_pow_succ, Nat.add_comm, Nat.mul_comm]
    obtain h | h := Nat.mod_two_eq_zero_or_one (v / 2 ^ n) <;> simp [h]

theorem drop_fieldBits (n v : Nat) (rest : List Bool) : (fieldBits n v ++ rest).drop n = rest :=
  List.drop_left' (Laws.fieldBits_length n v)

section Cursors
variable {m : Type → Type} [Monad m] [LawfulMonad m] {rd : Nat → StateT (List Bool) m Nat} {α β : Type}

/-- A cursor whose reads give back the fields written before them. -/
def ReadsFields (rd : Nat → StateT (List Bool) m Nat) : Prop :=
  ∀ (n v : Nat) (rest : List Bool), v < 2 ^ n → rd n (fieldBits n v ++ rest) = pure (v, rest)

/-- The program cursor reads fields back (44_fvm_program.md R282). -/
theorem pbRead_readsFields : ReadsFields (m := Id) pbRead := by
  intro n v rest hv
  change (fieldZ n (fieldBits n v ++ rest), (fieldBits n v ++ rest).drop n) = (v, rest)
  rw [fieldZ_fieldBits, drop_fieldBits, Nat.mod_eq_of_lt hv]

/-- The record cursor reads fields back (43_unpack_engine.md R244). -/
theorem rbRead_readsFields : ReadsFields (m := Option) rbRead := by
  intro n v rest hv
  have hn : n ≤ (fieldBits n v ++ rest).length := by rw [List.length_append, Laws.fieldBits_length]; omega
  rw [rbRead, if_pos hn, fieldZ_fieldBits, drop_fieldBits, Nat.mod_eq_of_lt hv]
  rfl

/-- A sequence whose first part reads a value goes on with that value on the bits left. -/
theorem cursor_bind {x : StateT (List Bool) m α} {k : α → StateT (List Bool) m β} {bits rest : List Bool} {a : α}
    (h : x bits = pure (a, rest)) : (x >>= k) bits = k a rest := by
  change (x bits >>= fun p => k p.1 p.2) = _
  rw [h, pure_bind]

/-- A field followed by whatever the next reads take. -/
theorem ReadsFields.bind (hrd : ReadsFields rd) {n v : Nat} {k : Nat → StateT (List Bool) m β} {rest : List Bool}
    (hv : v < 2 ^ n) : (rd n >>= k) (fieldBits n v ++ rest) = k v rest :=
  cursor_bind (hrd n v rest hv)

/-! ### Numbers -/

/-- A number's form decodes back from its bits, whatever follows (30_encoding.md R112). -/
theorem decodeVnumForm_encode (hrd : ReadsFields rd) {f : VnumForm} (hf : f.wf = true) (rest : List Bool) :
    decodeVnumForm rd (f.encode ++ rest) = pure (f, rest) := by
  unfold decodeVnumForm
  cases f with
  | f00 x =>
    rw [VnumForm.encode, List.append_assoc, hrd.bind (by decide), if_pos rfl, hrd.bind x.isLt, BitVec.ofNat_toNat]
    rfl
  | f01 h l =>
    have hh : h.toNat ≠ 0 := fun e => by
      have : h ≠ 0 := by simpa [VnumForm.wf] using hf
      exact this (BitVec.eq_of_toNat_eq e)
    rw [VnumForm.encode, List.append_assoc, List.append_assoc, hrd.bind (by decide), if_neg (by decide), if_pos rfl,
      hrd.bind h.isLt, if_neg hh, hrd.bind l.isLt, BitVec.ofNat_toNat, BitVec.ofNat_toNat]
    rfl
  | f01h0 x =>
    rw [VnumForm.encode, List.append_assoc, List.append_assoc, hrd.bind (by decide), if_neg (by decide), if_pos rfl,
      hrd.bind (by decide), if_pos rfl, hrd.bind x.isLt, BitVec.ofNat_toNat]
    rfl
  | f10 x =>
    rw [VnumForm.encode, List.append_assoc, hrd.bind (by decide), if_neg (by decide), if_neg (by decide), if_pos rfl,
      hrd.bind x.isLt, BitVec.ofNat_toNat]
    rfl
  | f11 x =>
    rw [VnumForm.encode, List.append_assoc, hrd.bind (by decide), if_neg (by decide), if_neg (by decide),
      if_neg (by decide), hrd.bind x.isLt, BitVec.ofNat_toNat]
    rfl

/-- The shortest form stands for its value: in each range the fields hold the whole of it (30_encoding.md R112). -/
theorem VnumForm.value_ofWord (v : Word) : (VnumForm.ofWord v).value = v := by
  have hv := v.isLt
  apply BitVec.eq_of_toNat_eq
  unfold VnumForm.ofWord
  split_ifs <;> simp only [value, BitVec.toNat_ofNat] <;> omega

/-- The shortest form is well-formed: the second form begins where its high field is not 0 (30_encoding.md R112). -/
theorem VnumForm.wf_ofWord (v : Word) : (VnumForm.ofWord v).wf = true := by
  unfold VnumForm.ofWord
  split_ifs with h16 h256
  · rfl
  · refine bne_iff_ne.mpr fun h => ?_
    have hhigh := congrArg BitVec.toNat h
    rw [BitVec.toNat_ofNat, show BitVec.toNat (0 : BitVec 4) = 0 from rfl] at hhigh
    omega
  · rfl
  · rfl
  · rfl

/-- Every `u32` decodes back from its shortest number, whatever follows (30_encoding.md R112). -/
theorem decodeVnum_encodeVnum (hrd : ReadsFields rd) (v : Word) (rest : List Bool) :
    decodeVnum rd (encodeVnum v ++ rest) = pure (v, rest) := by
  rw [decodeVnum, encodeVnum, cursor_bind (decodeVnumForm_encode hrd (VnumForm.wf_ofWord v) rest), VnumForm.value_ofWord]
  rfl

end Cursors

/-! ### Operands: what the program cursor reads first, and how a decoder goes on -/

variable {α β : Type} {bm : Bool} {op : Nat} {a b : Operand} {rest : List Bool}

theorem pb_bind {x : Pb α} {k : α → Pb β} {bits rest : List Bool} {a : α} (h : x bits = (a, rest)) :
    (x >>= k) bits = k a rest := cursor_bind (m := Id) h

theorem pb_field {n v : Nat} {k : Nat → Pb β} (hv : v < 2 ^ n) :
    (pbRead n >>= k) (fieldBits n v ++ rest) = k v rest := pbRead_readsFields.bind hv

theorem pb_zero {k : Nat → Pb β} : (pbRead 1 >>= k) (false :: rest) = k 0 rest := pb_bind rfl
theorem pb_one {k : Nat → Pb β} : (pbRead 1 >>= k) (true :: rest) = k 1 rest := pb_bind rfl

theorem pb_vnum {k : Word → Pb β} (v : Word) : (decodeVnum pbRead >>= k) (encodeVnum v ++ rest) = k v rest :=
  pb_bind (decodeVnum_encodeVnum (m := Id) pbRead_readsFields v rest)

/-- An operand decodes back from its bits in the width it was encoded for (30_encoding.md R116, R117). -/
theorem decodeOperand_encodeOperand (hwf : a.wf bm = true) (rest : List Bool) :
    decodeOperand bm (encodeOperand bm a ++ rest) = (a, rest) := by
  unfold decodeOperand
  cases a with
  | reg r =>
    change (pbRead 1 >>= _) (true :: (fieldBits 3 r.val ++ rest)) = _
    rw [pb_one, if_pos rfl, pb_field r.isLt, Fin.ofNat_eq_cast, Fin.cast_val_eq_self]
    rfl
  | imm d =>
    change (pbRead 1 >>= _) (false :: false :: ((if bm then fieldBits 8 d.toNat else encodeVnum d) ++ rest)) = _
    rw [pb_zero, if_neg (by decide), pb_zero, if_pos rfl]
    cases bm with
    | true =>
      have hd : d.toNat ≤ 255 := by simpa [Operand.wf] using hwf
      rw [if_pos rfl, if_pos rfl, pb_field (by omega), BitVec.ofNat_toNat, BitVec.setWidth_eq]
      rfl
    | false =>
      rw [if_neg Bool.false_ne_true, if_neg Bool.false_ne_true, pb_vnum]
      rfl
  | regmem0 r =>
    change (pbRead 1 >>= _) (false :: true :: false :: (fieldBits 3 r.val ++ rest)) = _
    rw [pb_zero, if_neg (by decide), pb_one, if_neg (by decide), pb_zero, if_pos rfl, pb_field r.isLt,
      Fin.ofNat_eq_cast, Fin.cast_val_eq_self]
    rfl
  | regmemB r b =>
    change (pbRead 1 >>= _) (false :: true :: true :: false :: ((fieldBits 3 r.val ++ encodeVnum b) ++ rest)) = _
    rw [pb_zero, if_neg (by decide), pb_one, if_neg (by decide), pb_one, if_neg (by decide), pb_zero, if_pos rfl,
      List.append_assoc, pb_field r.isLt, pb_vnum, Fin.ofNat_eq_cast, Fin.cast_val_eq_self]
    rfl
  | absmem b =>
    change (pbRead 1 >>= _) (false :: true :: true :: true :: (encodeVnum b ++ rest)) = _
    rw [pb_zero, if_neg (by decide), pb_one, if_neg (by decide), pb_one, if_neg (by decide), pb_one, if_neg (by decide),
      pb_vnum]
    rfl

theorem pb_operand {k : Operand → Pb β} (hwf : a.wf bm = true) :
    (decodeOperand bm >>= k) (encodeOperand bm a ++ rest) = k a rest :=
  pb_bind (decodeOperand_encodeOperand hwf rest)

/-! ### Commands -/

/-- An opcode number decodes back from its `esc` bit and its field (30_encoding.md R114). -/
theorem decodeOpcode_encodeOpcode (hop : op < 40) (rest : List Bool) :
    decodeOpcode (encodeOpcode op ++ rest) = (op, rest) := by
  unfold decodeOpcode encodeOpcode
  split
  · rw [List.cons_append, pb_zero, if_pos rfl]
    exact pbRead_readsFields 3 op rest (by omega)
  · rw [List.cons_append, pb_one, if_neg (by decide), pb_field (by omega)]
    exact congrArg (·, rest) (Nat.sub_add_cancel (by omega))

/-- A command is its opcode followed by the body that the opcode selects. -/
theorem decodeCommand_encodeOpcode (hop : op < 40) (rest : List Bool) :
    decodeCommand (encodeOpcode op ++ rest) = decodeBody op rest := pb_bind (decodeOpcode_encodeOpcode hop rest)

/-- `F2` with a width bit decodes back. -/
theorem decodeCommand_encodeF2B {mk : Bool → Operand → Operand → Instr} (hop : op < 40)
    (hbody : decodeBody op = decodeF2B mk) (hwf : (a.wf bm && b.wf bm) = true) :
    decodeCommand (encodeF2B op bm a b ++ rest) = (mk bm a b, rest) := by
  obtain ⟨ha, hb⟩ := Bool.and_eq_true_iff.mp hwf
  rw [encodeF2B, List.append_assoc, decodeCommand_encodeOpcode hop, hbody, decodeF2B, List.cons_append,
    List.append_assoc]
  cases bm
  · exact pb_zero.trans ((pb_operand ha).trans (pb_operand hb))
  · exact pb_one.trans ((pb_operand ha).trans (pb_operand hb))

/-- `F1` with a width bit decodes back. -/
theorem decodeCommand_encodeF1B {mk : Bool → Operand → Instr} (hop : op < 40)
    (hbody : decodeBody op = decodeF1B mk) (hwf : a.wf bm = true) :
    decodeCommand (encodeF1B op bm a ++ rest) = (mk bm a, rest) := by
  rw [encodeF1B, List.append_assoc, decodeCommand_encodeOpcode hop, hbody, decodeF1B, List.cons_append]
  cases bm
  · exact pb_zero.trans (pb_operand hwf)
  · exact pb_one.trans (pb_operand hwf)

/-- A word operand is well-formed at every value (30_encoding.md R117). -/
theorem Operand.wf_false (a : Operand) : a.wf false = true := by cases a <;> rfl

/-- `F2` without a width bit decodes back. -/
theorem decodeCommand_encodeF2 {mk : Operand → Operand → Instr} (hop : op < 40) (hbody : decodeBody op = decodeF2 mk) :
    decodeCommand (encodeF2 op a b ++ rest) = (mk a b, rest) := by
  rw [encodeF2, List.append_assoc, decodeCommand_encodeOpcode hop, hbody, decodeF2, List.append_assoc,
    pb_operand a.wf_false, pb_operand b.wf_false]
  rfl

/-- `F1` without a width bit decodes back. -/
theorem decodeCommand_encodeF1 {mk : Operand → Instr} (hop : op < 40) (hbody : decodeBody op = decodeF1 mk) :
    decodeCommand (encodeF1 op a ++ rest) = (mk a, rest) := by
  rw [encodeF1, List.append_assoc, decodeCommand_encodeOpcode hop, hbody, decodeF1, pb_operand a.wf_false]
  rfl

/-- The bits of every command of a blob decode back to it, by the format of the command (30_encoding.md R113, R114). -/
theorem decodeCommand_encode {i : Instr} {bits : List Bool} (hwf : i.wf = true) (hi : i.isEncodable = true)
    (hbits : encode i = some bits) : decodeCommand (bits ++ rest) = (i, rest) := by
  cases i <;> cases hi <;> cases hbits
  case mov | cmp | add | sub | bxor | band | bor | test | shl | shr | sar | xchg | mul | div | adc | sbb =>
    exact decodeCommand_encodeF2B (by decide) rfl hwf
  case inc | dec | bnot | neg => exact decodeCommand_encodeF1B (by decide) rfl hwf
  case movzx | movsx => exact decodeCommand_encodeF2 (by decide) rfl
  case jz | jnz | jmp | js | jns | jb | jbe | ja | jae | push | pop | call =>
    exact decodeCommand_encodeF1 (by decide) rfl
  case ret | pusha | popa | pushf | popf | print => exact decodeCommand_encodeOpcode (by decide) rest

end Sys2Proof

open Sys2Proof Sys2Proof.Machine

/-- Settles O23: by the format of the command, each field read back from the bits written for it. -/
theorem commandDecodeEncode : Obligations.CommandDecodeEncode := by
  unfold Obligations.CommandDecodeEncode
  exact fun i bits rest => decodeCommand_encode

/-- Settles O24: by the form of the operand or number, on a cursor that reads fields back. -/
theorem operandAndNumberDecodeEncode : Obligations.OperandAndNumberDecodeEncode := by
  unfold Obligations.OperandAndNumberDecodeEncode
  refine ⟨fun bm op rest hwf => ⟨decodeOperand_encodeOperand hwf rest, by cases op <;> rfl⟩,
    fun f rest hf => ⟨decodeVnumForm_encode (m := Id) pbRead_readsFields hf rest, by cases f <;> rfl⟩,
    decodeVnum_encodeVnum (m := Id) pbRead_readsFields, decodeVnum_encodeVnum (m := Option) rbRead_readsFields⟩
end

section
/-! Jump displacements, symbol numbers, and the operand and number rows. -/

namespace Sys2Proof

/-! ### Jump displacements -/

/-- A displacement that is not negative is its bits. -/
theorem toInt_eq_toNat_of_nonneg {d : Word} (h : 0 ≤ d.toInt) : d.toInt = d.toNat :=
  BitVec.toInt_eq_toNat_of_lt (BitVec.toInt_pos_iff.mp h)

/-- A target below the index: what the displacement falls short of `c` is taken off (30_encoding.md R118). -/
theorem add_sub_eq_sub_ofInt {d : Word} (c : Nat) (i : Word) (h : 0 ≤ d.toInt) (hc : d.toInt ≤ c) :
    i + d - BitVec.ofNat 32 c = i - BitVec.ofInt 32 (c - d.toInt) := by
  rw [toInt_eq_toNat_of_nonneg h] at hc ⊢
  rw [← Int.natCast_sub (by omega), BitVec.ofInt_natCast,
    ← BitVec.ofNat_sub_ofNat_of_le c d.toNat d.isLt (by omega), BitVec.ofNat_toNat, BitVec.setWidth_eq]
  ring

/-! ### Symbol numbers -/

/-- Each row of LD is the row of its own number (30_encoding.md R101). -/
theorem ldSymbol_ldRows (k : Fin 43) : ∃ i, ldRows[k.val]? = some i ∧ ldSymbol i = some (k.val + 256) := by
  fin_cases k <;> exact ⟨_, rfl, rfl⟩

/-- Each run of MD is the row of its own number (30_encoding.md R97, R98). -/
theorem mdSymbol_mdRows (k : Fin 4) : ∃ i, mdRows[k.val]? = some i ∧ mdSymbol i = some (k.val + 16) := by
  fin_cases k <;> exact ⟨_, rfl, rfl⟩

/-- Every LD symbol stands for the instruction whose symbol it is (30_encoding.md R101). -/
theorem ldInstr_ldSymbol {s : Nat} (hs : s < 299) : ∃ i, ldInstr s = .ok i ∧ ldSymbol i = some s := by
  unfold ldInstr
  by_cases h : s < 256
  · refine ⟨_, if_pos h, congrArg some ?_⟩
    rw [BitVec.toNat_ofNat, Nat.mod_eq_of_lt h]
  · obtain ⟨i, hi, hsym⟩ := ldSymbol_ldRows ⟨s - 256, by omega⟩
    refine ⟨i, by rw [if_neg h, hi], hsym.trans (congrArg some ?_)⟩
    exact Nat.sub_add_cancel (Nat.le_of_not_lt h)

/-- Every MD symbol stands for the instruction whose symbol it is (30_encoding.md R96 to R98). -/
theorem mdInstr_mdSymbol {s : Nat} (hs : s < 20) : ∃ i, mdInstr s = .ok i ∧ mdSymbol i = some s := by
  unfold mdInstr
  by_cases h : s < 16
  · refine ⟨_, if_pos h, congrArg some ?_⟩
    rw [BitVec.toNat_ofNat, Nat.mod_eq_of_lt h]
  · obtain ⟨i, hi, hsym⟩ := mdSymbol_mdRows ⟨s - 16, by omega⟩
    refine ⟨i, by rw [if_neg h, hi], hsym.trans (congrArg some ?_)⟩
    exact Nat.sub_add_cancel (Nat.le_of_not_lt h)

theorem ldInstr_large {s : Nat} (hs : 299 ≤ s) : ldInstr s = .error (.noLdSymbol s) := by
  have hnone : ldRows[s - 256]? = none := List.getElem?_eq_none (by change 43 ≤ s - 256; omega)
  rw [ldInstr, if_neg (by omega), hnone]

theorem mdInstr_large {s : Nat} (hs : 20 ≤ s) : mdInstr s = .error (.noMdSymbol s) := by
  have hnone : mdRows[s - 16]? = none := List.getElem?_eq_none (by change 4 ≤ s - 16; omega)
  rw [mdInstr, if_neg (by omega), hnone]

end Sys2Proof

open Sys2Proof Sys2Proof.Machine

/-- Settles O22: by the five ranges of R118. -/
theorem jumpDisplacementTable : Obligations.JumpDisplacementTable := by
  unfold Obligations.JumpDisplacementTable
  intro idx d hidx
  have hlt := d.isLt
  dsimp only
  refine ⟨fun h => ?_, fun h1 h2 => ?_, fun h1 h2 => ?_, fun h1 h2 => ?_, fun h1 h2 => ?_, fun h => ?_⟩
  · have hd := toInt_eq_toNat_of_nonneg (d := d) (by omega)
    rw [jumpTarget, if_pos h]
    rw [hd] at h ⊢
    bv_omega
  · rw [jumpTarget, if_neg (by omega), if_pos h1]
    exact add_sub_eq_sub_ofInt 264 _ (by omega) (by omega)
  · have hd := toInt_eq_toNat_of_nonneg (d := d) (by omega)
    rw [jumpTarget, if_neg (by omega), if_neg (by omega), if_pos h1]
    rw [hd] at h1 h2 ⊢
    bv_omega
  · rw [jumpTarget, if_neg (by omega), if_neg (by omega), if_neg (by omega), if_pos h1]
    exact add_sub_eq_sub_ofInt 16 _ (by omega) (by omega)
  · have hd := toInt_eq_toNat_of_nonneg h1
    rw [jumpTarget, if_neg (by omega), if_neg (by omega), if_neg (by omega), if_neg (by omega)]
    rw [hd] at h2 ⊢
    bv_omega
  · rw [jumpTarget, if_neg (by omega), if_neg (by omega), if_neg (by omega), if_neg (by omega)]

/-- Settles O3: a row leaves its form's value on the port; the third number form is the only one whose two descriptions
differ. -/
theorem operandAndNumberRows : Obligations.OperandAndNumberRows := by
  unfold Obligations.OperandAndNumberRows
  refine ⟨fun bm r d b s => ⟨rfl, rfl, rfl, rfl, rfl⟩, fun x h l y z w s => ⟨rfl, fun _ => rfl, ?_, rfl, rfl⟩⟩
  have hy : (VnumForm.f01h0 y).value = 0xFFFFFF00 + y.setWidth 32 := by
    apply BitVec.eq_of_toNat_eq
    simp [VnumForm.value]
  exact congrArg (fun v => Host.Outcome.next { s with port := UnitResult.word v }) hy

/-- Settles O25: the sample words by decoding them, the symbols by their two ranges. -/
theorem sampleWordsAndSymbolMaps : Obligations.SampleWordsAndSymbolMaps := by
  unfold Obligations.SampleWordsAndSymbolMaps
  exact ⟨⟨rfl, rfl, rfl, rfl, rfl, rfl⟩, fun _ => ldInstr_ldSymbol, fun _ h => ⟨_, ldInstr_large h⟩,
    fun _ => mdInstr_mdSymbol, fun _ h => ⟨_, mdInstr_large h⟩⟩
end

section
/-! The block header and the transmitted lengths (43_unpack_engine.md R220 to R226). -/

namespace Sys2Proof.Machine

variable {s t : State}

/-! ### Reads one behind the other -/

/-- A field is below its range (00_scope.md R13). -/
theorem fieldZ_lt (n : Nat) (bits : List Bool) : fieldZ n bits < 2 ^ n := by
  induction n generalizing bits with
  | zero => exact Nat.one_pos
  | succ n ih =>
    cases bits with
    | nil => exact Nat.two_pow_pos _
    | cons b bs =>
      have := ih bs
      have hb : b.toNat * 2 ^ n ≤ 1 * 2 ^ n := Nat.mul_le_mul_right _ (Bool.toNat_le b)
      rw [fieldZ, Nat.pow_succ]
      omega

theorem State.peekVal_lt (s : State) (n : Nat) : s.peekVal n < 2 ^ n := fieldZ_lt n _

theorem State.canRead_iff {n : Nat} : s.canRead n = true ↔ s.pos + n ≤ s.endPos := decide_eq_true_iff

/-- Two fields can be read one behind the other where both together can. -/
theorem State.canRead_add {m n : Nat} (h : s.canRead m = true) :
    (s.seek (s.pos + m)).canRead n = s.canRead (m + n) := by
  rw [State.canRead_iff] at h
  rw [State.canRead, State.canRead, State.pos_seek h, State.endPos_seek, Nat.add_assoc]

theorem State.canRead_of_le {m n : Nat} (hmn : m ≤ n) (h : s.canRead n = true) : s.canRead m = true := by
  rw [State.canRead_iff] at h ⊢
  omega

/-- The second of two moves is the one that stays. -/
theorem State.seek_add {m n : Nat} (h : s.canRead m = true) :
    (s.seek (s.pos + m)).seek ((s.seek (s.pos + m)).pos + n) = s.seek (s.pos + (m + n)) := by
  rw [State.pos_seek (State.canRead_iff.mp h), Nat.add_assoc]
  rfl

/-! ### The description of the meta-alphabet -/

variable {ml : List (BitVec 4)} {fuel : Nat}

theorem readMetaLengths_full (h : 20 ≤ ml.length) : readMetaLengths fuel ml s = .ok ml s := by
  cases fuel with
  | zero => rfl
  | succ fuel => rw [readMetaLengths, if_pos h]; rfl

theorem readMetaLengths_cut (h : ml.length < 20) (hr : s.canRead 4 = false) :
    readMetaLengths (fuel + 1) ml s = .error (.raise .truncated) s := by
  rw [readMetaLengths, if_neg (by omega)]
  exact op_bind_error (bcRead_short hr)

theorem readMetaLengths_length (h : ml.length < 20) (hr : s.canRead 4 = true) (hv : s.peekVal 4 < 15) :
    readMetaLengths (fuel + 1) ml s =
      readMetaLengths fuel (ml ++ [BitVec.ofNat 4 (s.peekVal 4)]) (s.seek (s.pos + 4)) := by
  rw [readMetaLengths, if_neg (by omega), op_bind_ok (bcRead_ok hr), if_pos (by omega)]

/-- An escape whose second field is cut. -/
theorem readMetaLengths_cutEscape (h : ml.length < 20) (hr : s.canRead 4 = true) (hv : s.peekVal 4 = 15)
    (hz : (s.seek (s.pos + 4)).canRead 4 = false) :
    readMetaLengths (fuel + 1) ml s = .error (.raise .truncated) (s.seek (s.pos + 4)) := by
  rw [readMetaLengths, if_neg (by omega), op_bind_ok (bcRead_ok hr), if_neg (by omega)]
  exact op_bind_error (bcRead_short hz)

/-- An escape with its second field (30_encoding.md R94). -/
theorem readMetaLengths_escape {z : Nat} (h : ml.length < 20) (hr : s.canRead 8 = true) (hv : s.peekVal 4 = 15)
    (hz : (s.seek (s.pos + 4)).peekVal 4 = z) :
    readMetaLengths (fuel + 1) ml s =
      if z = 0 then readMetaLengths fuel (ml ++ [15]) (s.seek (s.pos + 8))
      else if 20 < ml.length + (z + 2) then .error (.raise .invalidTable) (s.seek (s.pos + 8))
      else readMetaLengths fuel (ml ++ List.replicate (z + 2) 0) (s.seek (s.pos + 8)) := by
  have hr4 := State.canRead_of_le (m := 4) (by decide) hr
  have hr' : (s.seek (s.pos + 4)).canRead 4 = true := (State.canRead_add hr4).trans hr
  rw [readMetaLengths, if_neg (by omega), op_bind_ok (bcRead_ok hr4), if_neg (by omega),
    op_bind_ok (bcRead_ok hr'), hz, State.seek_add hr4, op_run_ite, op_run_ite, op_run_raise]

/-- How the reading of a description ends. -/
def metaResult (r : Except ErrKind (List (BitVec 4))) (t : State) : EStateM.Result Stop State (List (BitVec 4)) :=
  match r with
  | .ok ml => .ok ml t
  | .error k => .error (.raise k) t

/-- The model reads a description as the rules of `MetaRun` say, given a round for each length that is missing. -/
theorem readMetaLengths_of_metaRun {r : Except ErrKind (List (BitVec 4))} (h : MetaRun ml s r t)
    (hf : 20 ≤ ml.length + fuel) : readMetaLengths fuel ml s = metaResult r t := by
  induction h generalizing fuel
  case done hlen => exact readMetaLengths_full hlen.ge
  all_goals obtain ⟨fuel, rfl⟩ := Nat.exists_eq_add_one_of_ne_zero (n := fuel) (by omega)
  case cut hlen hr => exact readMetaLengths_cut hlen hr
  case length hlen hr hv _ ih =>
    rw [readMetaLengths_length hlen hr hv]
    exact ih (by simp; omega)
  case cutEscape hlen hr hv hz => exact readMetaLengths_cutEscape hlen hr hv hz
  case fifteen hlen hr hv hz _ ih =>
    rw [readMetaLengths_escape hlen hr hv hz, if_pos rfl]
    exact ih (by simp; omega)
  case zeros hlen hr hv hz hz1 hle _ ih =>
    rw [readMetaLengths_escape hlen hr hv hz, if_neg (by omega), if_neg (by omega)]
    exact ih (by simp; omega)
  case tooLong hlen hr hv hz hz1 hlt =>
    rw [readMetaLengths_escape hlen hr hv hz, if_neg (by omega), if_pos (by omega)]
    rfl

/-- The rules of `MetaRun` always lead to an end. -/
theorem exists_metaRun (s : State) (ml : List (BitVec 4)) (h : ml.length ≤ 20) : ∃ r t, MetaRun ml s r t := by
  by_cases hlen : ml.length = 20
  · exact ⟨_, _, .done hlen⟩
  have hlt : ml.length < 20 := by omega
  cases hr : s.canRead 4 with
  | false => exact ⟨_, _, .cut hlt hr⟩
  | true =>
    have hv := s.peekVal_lt 4
    by_cases hv15 : s.peekVal 4 = 15
    · cases hz : (s.seek (s.pos + 4)).canRead 4 with
      | false => exact ⟨_, _, .cutEscape hlt hr hv15 hz⟩
      | true =>
        have hr8 : s.canRead 8 = true := (State.canRead_add hr).symm.trans hz
        by_cases hz0 : (s.seek (s.pos + 4)).peekVal 4 = 0
        · obtain ⟨r, t, h⟩ := exists_metaRun (s.seek (s.pos + 8)) (ml ++ [15]) (by simp; omega)
          exact ⟨r, t, .fifteen hlt hr8 hv15 hz0 h⟩
        · by_cases hfit : ml.length + (s.seek (s.pos + 4)).peekVal 4 + 2 ≤ 20
          · obtain ⟨r, t, h⟩ := exists_metaRun (s.seek (s.pos + 8))
              (ml ++ List.replicate ((s.seek (s.pos + 4)).peekVal 4 + 2) 0) (by simp; omega)
            exact ⟨r, t, .zeros hlt hr8 hv15 rfl (by omega) hfit h⟩
          · exact ⟨_, _, .tooLong hlt hr8 hv15 rfl (by omega) (by omega)⟩
    · obtain ⟨r, t, h⟩ := exists_metaRun (s.seek (s.pos + 4)) (ml ++ [BitVec.ofNat 4 (s.peekVal 4)]) (by simp; omega)
      exact ⟨r, t, .length hlt hr (by omega) h⟩
termination_by 20 - ml.length
decreasing_by all_goals (simp; omega)

/-! ### The header -/

/-- The state in which the header's bits are read: the cursor aligned, the low-distance registers cleared (R220). -/
def State.headerStart (s : State) : State := { s with bc := s.bc.align, low := ⟨0, 0⟩ }

/-- The state behind one bit. -/
def State.skipBit (s : State) : State := s.seek (s.pos + 1)

theorem blockHeaderOp_cut (h : s.headerStart.canRead 1 = false) :
    blockHeaderOp s = .error (.raise .truncated) s.headerStart := by
  rw [blockHeaderOp, op_bind_ok (bcAlign_run s), op_bind_ok (op_run_modify _ _)]
  exact op_bind_error (bcRead_short h)

/-- `rsv` is checked before `reuse` is read (R221). -/
theorem blockHeaderOp_rsv (h : s.headerStart.canRead 1 = true) (hrsv : s.headerStart.peekVal 1 = 1) :
    blockHeaderOp s = .error (.raise .corruptStream) s.headerStart.skipBit := by
  rw [blockHeaderOp, op_bind_ok (bcAlign_run s), op_bind_ok (op_run_modify _ _)]
  exact (op_bind_ok (bcRead_ok h)).trans (by rw [hrsv]; rfl)

section Reuse
variable (h : s.headerStart.canRead 1 = true) (hrsv : s.headerStart.peekVal 1 = 0)
include h hrsv

theorem blockHeaderOp_cutReuse (h1 : s.headerStart.skipBit.canRead 1 = false) :
    blockHeaderOp s = .error (.raise .truncated) s.headerStart.skipBit := by
  rw [blockHeaderOp, op_bind_ok (bcAlign_run s), op_bind_ok (op_run_modify _ _)]
  refine (op_bind_ok (bcRead_ok h)).trans ?_
  rw [hrsv, if_neg (by decide)]
  exact op_bind_error (bcRead_short h1)

/-- Behind both bits: the tables in force, or a description (R222, R223). -/
theorem blockHeaderOp_reuse (h1 : s.headerStart.skipBit.canRead 1 = true) :
    let s2 := s.headerStart.skipBit.skipBit
    blockHeaderOp s =
      if s.headerStart.skipBit.peekVal 1 = 1 then
        if s.tables.valid = true then .ok () { s2 with ue := .decodingSymbols, hdr := .start }
        else .error (.raise .corruptStream) s2
      else (readMetaLengths 20 [] >>= fun ml => htbBuild .md ml >>= fun _ =>
        modify fun t => { t with ue := .readingTables, hdr := .lengths, lens := [] }) s2 := by
  rw [blockHeaderOp, op_bind_ok (bcAlign_run s), op_bind_ok (op_run_modify _ _)]
  refine (op_bind_ok (bcRead_ok h)).trans ?_
  rw [hrsv, if_neg (by decide)]
  refine (op_bind_ok (bcRead_ok h1)).trans ((op_bind_ok (op_run_get _)).trans ?_)
  rw [op_run_ite, op_run_ite]
  rfl

end Reuse

/-- A table that builds (41_huffman.md R160). -/
theorem htbBuild_ok {i : TableId} {len : List (BitVec 4)} {T : HuffTable} (h : buildTable (tableSize i) len = some T) :
    htbBuild i len s = .ok () { s with tables := s.tables.replace i T } := by rw [htbBuild_run, h]

/-- A table that does not build (41_huffman.md R166). -/
theorem htbBuild_none {i : TableId} {len : List (BitVec 4)} (h : buildTable (tableSize i) len = none) :
    htbBuild i len s = .error (.raise .invalidTable) s := by rw [htbBuild_run, h]

/-! ### The transmitted lengths -/

/-- The last slice is all that is left of the 404 lengths (30_encoding.md R100). -/
theorem lensSlice_rd {lens : List (BitVec 4)} (h : lens.length = 404) : lensSlice lens 376 28 = lens.drop 376 :=
  List.take_of_length_le (by rw [List.length_drop]; omega)

/-- All four tables build (R226). -/
theorem buildFour_ok {ld dd ldd rd : HuffTable} (h : s.lens.length = 404)
    (hld : buildTable 299 (s.lens.take 299) = some ld) (hdd : buildTable 60 ((s.lens.drop 299).take 60) = some dd)
    (hldd : buildTable 17 ((s.lens.drop 359).take 17) = some ldd) (hrd : buildTable 28 (s.lens.drop 376) = some rd) :
    buildFour s = .ok () { s with
      tables := ⟨ld, dd, ldd, rd, s.tables.md, true⟩, ue := .decodingSymbols, hdr := .start, lens := [] } := by
  rw [← lensSlice_rd h] at hrd
  exact (op_bind_ok (op_run_get s)).trans <| (op_bind_ok (htbBuild_ok (i := .ld) hld)).trans <|
    (op_bind_ok (htbBuild_ok (i := .dd) hdd)).trans <| (op_bind_ok (htbBuild_ok (i := .ldd) hldd)).trans <|
    op_bind_ok (htbBuild_ok (i := .rd) hrd)

/-- One of the four tables does not build: the ones before it are replaced, the tables are not marked valid (R226). -/
theorem buildFour_error (h : s.lens.length = 404)
    (hnone : buildTable 299 (s.lens.take 299) = none ∨ buildTable 60 ((s.lens.drop 299).take 60) = none ∨
      buildTable 17 ((s.lens.drop 359).take 17) = none ∨ buildTable 28 (s.lens.drop 376) = none) :
    ∃ u, buildFour s = .error (.raise .invalidTable) u ∧ u.bc = s.bc ∧ u.tables.valid = s.tables.valid := by
  rw [← lensSlice_rd h] at hnone
  have hget := op_run_get s
  cases hld : buildTable 299 (s.lens.take 299) with
  | none => exact ⟨_, (op_bind_ok hget).trans (op_bind_error (htbBuild_none (i := .ld) hld)), rfl, rfl⟩
  | some ld =>
    have run1 {α : Type} (k : Unit → Op α) := op_bind_ok (k := k) (htbBuild_ok (s := s) (i := .ld) hld)
    cases hdd : buildTable 60 ((s.lens.drop 299).take 60) with
    | none => exact ⟨_, (op_bind_ok hget).trans ((run1 _).trans (op_bind_error (htbBuild_none (i := .dd) hdd))), rfl, rfl⟩
    | some dd =>
      have run2 {α : Type} (k : Unit → Op α) (u : State) := op_bind_ok (k := k) (htbBuild_ok (s := u) (i := .dd) hdd)
      cases hldd : buildTable 17 ((s.lens.drop 359).take 17) with
      | none =>
        exact ⟨_, (op_bind_ok hget).trans ((run1 _).trans ((run2 _ _).trans
          (op_bind_error (htbBuild_none (i := .ldd) hldd)))), rfl, rfl⟩
      | some ldd =>
        have run3 {α : Type} (k : Unit → Op α) (u : State) := op_bind_ok (k := k) (htbBuild_ok (s := u) (i := .ldd) hldd)
        have hrd : buildTable 28 (lensSlice s.lens 376 28) = none := by simpa [hld, hdd, hldd] using hnone
        exact ⟨_, (op_bind_ok hget).trans ((run1 _).trans ((run2 _ _).trans ((run3 _ _).trans
          (op_bind_error (htbBuild_none (i := .rd) hrd))))), rfl, rfl⟩

/-- The lengths before the last are appended only (R224). -/
theorem appendLens_more {ls : List (BitVec 4)} (h : s.lens.length + ls.length < 404) :
    appendLens ls s = .ok () { s with lens := s.lens ++ ls } := by
  rw [appendLens_run, if_neg]
  rw [List.length_append]
  exact Nat.not_le_of_lt h

/-- The 404th length is followed by the four tables (R226). -/
theorem appendLens_last {ls : List (BitVec 4)} (h : s.lens.length + ls.length = 404) :
    appendLens ls s = buildFour { s with lens := s.lens ++ ls } := by
  rw [appendLens_run, if_pos]
  rw [List.length_append]
  exact h.ge

/-- What an instruction does that appends the last length: the four tables, or InvalidTable (R226). -/
theorem exec_appendLens_last {i : Instr} {ls : List (BitVec 4)} (hexec : exec i s = runOp (appendLens ls) t)
    (h : t.lens.length + ls.length = 404) :
    let lens := t.lens ++ ls
    (∀ ld dd ldd rd, buildTable 299 (lens.take 299) = some ld → buildTable 60 ((lens.drop 299).take 60) = some dd →
      buildTable 17 ((lens.drop 359).take 17) = some ldd → buildTable 28 (lens.drop 376) = some rd →
      exec i s = .next { t with
        tables := ⟨ld, dd, ldd, rd, t.tables.md, true⟩, ue := .decodingSymbols, hdr := .start, lens := [] }) ∧
    ((buildTable 299 (lens.take 299) = none ∨ buildTable 60 ((lens.drop 299).take 60) = none ∨
        buildTable 17 ((lens.drop 359).take 17) = none ∨ buildTable 28 (lens.drop 376) = none) →
      ∃ u : State, exec i s = .next (u.raise .invalidTable) ∧ u.bc = t.bc ∧ u.tables.valid = t.tables.valid) := by
  have hrun := appendLens_last h
  have hlen : (t.lens ++ ls).length = 404 := List.length_append.trans h
  refine ⟨fun ld dd ldd rd hld hdd hldd hrd => ?_, fun hnone => ?_⟩
  · exact hexec.trans (runOp_ok (hrun.trans (buildFour_ok (s := { t with lens := t.lens ++ ls }) hlen hld hdd hldd hrd)))
  · obtain ⟨u, hu, hbc, hvalid⟩ := buildFour_error (s := { t with lens := t.lens ++ ls }) hlen hnone
    exact ⟨u, hexec.trans (runOp_raise (hrun.trans hu)), hbc, hvalid⟩

/-- The four runs of MD with the width of the field, its base and whether the previous length is repeated
(30_encoding.md R97, R98). -/
theorem exec_mdRun {i : Instr} {w base : Nat} {prev : Bool}
    (h : (i, w, base, prev) ∈ [(Instr.mdRepPrev3, 3, 3, true), (.mdRepPrev11, 7, 11, true), (.mdRepZero3, 3, 3, false),
      (.mdRepZero11, 7, 11, false)]) (s : State) : exec i s = runOp (runLens w base prev) s := by
  simp only [List.mem_cons, Prod.mk.injEq, List.not_mem_nil, or_false] at h
  obtain ⟨rfl, rfl, rfl, rfl⟩ | ⟨rfl, rfl, rfl, rfl⟩ | ⟨rfl, rfl, rfl, rfl⟩ | ⟨rfl, rfl, rfl, rfl⟩ := h <;> rfl

section Runs
variable {w base : Nat} {prev : Bool}

theorem runLens_cut (h : s.canRead w = false) : runLens w base prev s = .error (.raise .truncated) s :=
  op_bind_error (bcRead_short h)

/-- The two checks behind the field (R225). -/
theorem runLens_invalid (h : s.canRead w = true)
    (hbad : (prev = true ∧ s.lens = []) ∨ 404 < s.lens.length + (s.peekVal w + base)) :
    runLens w base prev s = .error (.raise .invalidTable) (s.seek (s.pos + w)) := by
  rw [runLens_run h]
  split
  · rfl
  · exact if_pos (hbad.resolve_left ‹_›)

theorem runLens_valid (h : s.canRead w = true) (hprev : prev = true → s.lens ≠ [])
    (hle : s.lens.length + (s.peekVal w + base) ≤ 404) :
    runLens w base prev s =
      appendLens (List.replicate (s.peekVal w + base) (if prev then s.lens.getLastD 0 else 0)) (s.seek (s.pos + w)) := by
  rw [runLens_run h, if_neg fun ⟨hp, hnil⟩ => hprev hp hnil]
  exact if_neg (Nat.not_lt_of_le hle)

end Runs

end Sys2Proof.Machine

open Sys2Proof Sys2Proof.Machine

/-- Settles O35: the two bits in their order, then the description by the rules of `MetaRun`. -/
theorem blockHeaderResults : Obligations.BlockHeaderResults := by
  unfold Obligations.BlockHeaderResults
  intro s
  refine ⟨fun h => runOp_raise (blockHeaderOp_cut h), fun h hrsv => runOp_raise (blockHeaderOp_rsv h hrsv),
    fun h hrsv h1 => runOp_raise (blockHeaderOp_cutReuse h hrsv h1), fun h hrsv h1 => ?_⟩
  have hreuse := blockHeaderOp_reuse h hrsv h1
  refine ⟨fun hu hv => ?_, fun hu hv => ?_, fun hu => ?_⟩
  · exact runOp_raise (hreuse.trans ((if_pos hu).trans (if_neg (by rw [hv]; decide))))
  · exact runOp_ok (hreuse.trans ((if_pos hu).trans (if_pos hv)))
  · replace hreuse := hreuse.trans (if_neg fun h' => absurd (hu.symm.trans h') (by decide))
    refine ⟨exists_metaRun _ _ (by decide), fun k t hm => ?_, fun ml t hm => ?_⟩
    · exact runOp_raise (hreuse.trans (op_bind_error (readMetaLengths_of_metaRun hm (by decide))))
    · replace hreuse := hreuse.trans (op_bind_ok (readMetaLengths_of_metaRun hm (by decide)))
      exact ⟨fun hb => runOp_raise (hreuse.trans (op_bind_error (htbBuild_none hb))),
        fun md hb => runOp_ok (hreuse.trans (op_bind_ok (htbBuild_ok (i := .md) hb)))⟩

/-- Settles O36: a run is its field, its checks and an append; the append that completes the lengths builds the tables. -/
theorem lengthSymbolResultsAndLast : Obligations.LengthSymbolResultsAndLast := by
  unfold Obligations.LengthSymbolResultsAndLast
  intro l s
  refine ⟨fun h => runOp_ok (appendLens_more h), fun h => exec_appendLens_last (ls := [l]) rfl h,
    fun i w base prev hi => ?_⟩
  have hexec := exec_mdRun hi s
  have hlen := List.length_replicate (n := s.peekVal w + base) (a := if prev then s.lens.getLastD 0 else 0)
  refine ⟨fun h => hexec.trans (runOp_raise (runLens_cut h)),
    fun h hbad => hexec.trans (runOp_raise (runLens_invalid h hbad)), fun h hprev hlt => ?_, fun h hprev heq => ?_⟩
  · refine hexec.trans (runOp_ok ((runLens_valid h hprev hlt.le).trans (appendLens_more ?_)))
    rw [hlen]
    exact hlt
  · refine exec_appendLens_last (t := s.seek (s.pos + w)) (hexec.trans ?_) ((congrArg (s.lens.length + ·) hlen).trans heq)
    rw [runOp, runOp, runLens_valid h hprev heq.le]
end

section
/-! Matches, distances and filter symbols (43_unpack_engine.md R228 to R230, R236, R243 to R256). -/

namespace Sys2Proof.Machine

variable {s s1 s2 s3 t : State}

/-! ### Matches -/

/-- A match with its fields read ends in its copy, the ring and the last match written before it (R228). -/
theorem matchOp_run {q x d dist : Nat} (hx : readExtra (lbits q) s = .ok x s1) (hd : decodeSym .dd s1 = .ok d s2)
    (hdist : readDistance d s2 = .ok dist s3) :
    let len := BitVec.ofNat 32 (lbase q + 3 + x + bump dist)
    let dw := BitVec.ofNat 32 dist
    matchOp q s = winCopy len dw { s3 with ring := insertRing s3.ring dw, last := ⟨len, dw⟩ } := by
  rw [matchOp, op_bind_ok hx, op_bind_ok hd, op_bind_ok hdist]
  rfl

/-- A copy that is legal runs (42_window.md R196, R197). -/
theorem winCopy_ok {l d : Word} (h : s.copyAllowed l d = true) : winCopy l d s = .ok () (s.copyBytes d.toNat l.toNat) :=
  (winCopy_run l d s).trans (if_pos h)

/-- A copy that is not legal raises before any byte (42_window.md R196). -/
theorem winCopy_raise {l d : Word} (h : s.copyAllowed l d = false) : winCopy l d s = .error (.raise .corruptStream) s :=
  (winCopy_run l d s).trans (if_neg (by rw [h]; decide))

theorem exec_of_matchRows {q : Nat} {i : Instr} (h : matchRows[q]? = some i) (s : State) :
    exec i s = runOp (matchOp q) s := by
  obtain ⟨hq, rfl⟩ := List.getElem?_eq_some_iff.mp h
  exact exec_matchRow ⟨q, hq⟩ s

/-! ### Distances -/

section Distance
variable {d x : Nat}

theorem readDistance_zero (h : dbits d = 0) : readDistance d s = .ok (dbase d + 1) s := by
  rw [readDistance, if_pos h]
  rfl

theorem readDistance_small (h0 : 1 ≤ dbits d) (h3 : dbits d ≤ 3) (hr : s.canRead (dbits d) = true) :
    readDistance d s = .ok (dbase d + 1 + s.peekVal (dbits d)) (s.seek (s.pos + dbits d)) := by
  rw [readDistance, if_neg (by omega), if_pos h3, op_bind_ok (bcRead_ok hr)]
  rfl

/-- A distance of at least four extra bits: the high field, then the low part (R228). -/
theorem readDistance_large {y : Nat} (h4 : 4 ≤ dbits d) (hx : readExtra (dbits d - 4) s = .ok x s1)
    (hlow : lowDist s1 = .ok y t) : readDistance d s = .ok (dbase d + 1 + 16 * x + y) t := by
  rw [readDistance, if_neg (by omega), if_neg (by omega), op_bind_ok hx, op_bind_ok hlow]
  rfl

theorem lowDist_repeat (h : s.low.rep ≠ 0) :
    lowDist s = .ok s.low.prev.toNat { s with low := ⟨s.low.prev, s.low.rep - 1⟩ } :=
  (lowDist_run s).trans (if_pos h)

/-- A low part by a symbol of LDD: 16 starts a repetition, a smaller one is remembered (R229). -/
theorem lowDist_symbol {y : Nat} (h : s.low.rep = 0) (hy : decodeSym .ldd s = .ok y t) :
    lowDist s = if y = 16 then .ok t.low.prev.toNat { t with low := ⟨t.low.prev, 15⟩ }
      else .ok y { t with low := ⟨BitVec.ofNat 4 y, t.low.rep⟩ } := by
  rw [lowDist_run, if_neg (not_not_intro h), hy]

end Distance

/-! ### Filter records -/

section Record
variable {fb : Byte} {n : Nat} {record : List Byte}

/-- The record is consumed whole, then parsed on the state behind it (R243, R245). -/
theorem filterRecord_run (hn : readRecordLen fb s = .ok n s1) (hrecord : bcReadFields n s1 = .ok record s2) :
    filterRecord fb s = match parseRecord s2 fb (bytesBits record) with
      | some (r, _) => .ok () (s2.enqueue r)
      | none => .error (.raise .corruptStream) s2 := by
  rw [filterRecord, op_bind_ok hn, op_bind_ok hrecord, op_bind_ok (op_run_get s2)]
  cases parseRecord s2 fb (bytesBits record) <;> rfl

/-- FILT is the record of the control byte it reads (R236). -/
theorem filtOp_run (hr : s.canRead 8 = true) (hfb : s.peekVal 8 = fb.toNat) :
    filtOp s = filterRecord fb (s.seek (s.pos + 8)) := by
  rw [filtOp, op_bind_ok (bcRead_ok hr), hfb, BitVec.ofNat_toNat, BitVec.setWidth_eq]

/-- A record that refers to an entry writes its two words and keeps its program (R251, R256). -/
theorem registerRecord_old {reg : List RegEntry} {r : ParsedRecord} (hp : r.program = none)
    (hi : r.inst.prog < reg.length) :
    registerRecord reg r = reg.set r.inst.prog
      { reg[r.inst.prog] with execCount := r.inst.execCount, lastBlockLength := r.inst.blockLength } := by
  rw [registerRecord, hp]
  exact List.modify_eq_set_get _ hi

/-- The low three bits of the control byte (30_encoding.md R108). -/
theorem toNat_and_seven (fb : Byte) : (fb &&& 7).toNat = fb.toNat % 8 := by
  rw [BitVec.toNat_and]
  exact Nat.and_two_pow_sub_one_eq_mod _ 3

end Record

end Sys2Proof.Machine

open Sys2Proof Sys2Proof.Machine

/-- Settles O39: the fields in their order, then the copy; the tables by their 28 entries. -/
theorem matchResults : Obligations.MatchResults := by
  unfold Obligations.MatchResults
  refine ⟨fun q i x d dist s s1 s2 s3 hi hx hd hdist => ?_, rfl, rfl, by decide, by decide⟩
  have hexec := exec_of_matchRows hi s
  have hrun := matchOp_run hx hd hdist
  exact ⟨fun h => hexec.trans (runOp_ok (hrun.trans (winCopy_ok h))),
    fun h => hexec.trans (runOp_raise (hrun.trans (winCopy_raise h)))⟩

/-- Settles O40: by the number of extra bits and the two low-distance registers; the tables by their 60 entries. -/
theorem distanceFields : Obligations.DistanceFields := by
  unfold Obligations.DistanceFields
  refine ⟨fun d x s s1 => ⟨readDistance_zero, readDistance_small, fun h4 hx => ⟨fun hrep => ?_, fun y s2 hrep hy => ?_⟩⟩,
    rfl, rfl, by decide, by decide⟩
  · exact readDistance_large h4 hx (lowDist_repeat hrep)
  · have hlow := lowDist_symbol hrep hy
    exact ⟨fun h => readDistance_large h4 hx (hlow.trans (if_pos h)),
      fun h => readDistance_large h4 hx (hlow.trans (if_neg h.ne))⟩

/-- Settles O41: both rows run the record, which parses on the state behind its bytes; the length by the three low bits. -/
theorem filterSymbolAndRecordLength : Obligations.FilterSymbolAndRecordLength := by
  unfold Obligations.FilterSymbolAndRecordLength
  refine ⟨fun fb n record s s1 s2 hn hrecord => ?_, fun fb s => ?_⟩
  · have hrun := filterRecord_run hn hrecord
    have ends : ∀ t, runOp (filterRecord fb) s = .next t → exec (.filterControlByte fb) s = .next t ∧
        ∀ s0, s0.canRead 8 = true → s0.peekVal 8 = fb.toNat → s0.seek (s0.pos + 8) = s → exec .filt s0 = .next t := by
      refine fun t ht => ⟨ht, fun s0 hr hfb hs => ?_⟩
      rw [← ht, ← hs, runOp, ← filtOp_run hr hfb]
      rfl
    refine ⟨fun r rest hp => ?_, fun hp => ends _ (runOp_raise (hrun.trans (by rw [hp])))⟩
    rw [hp] at hrun
    have after : ∀ reg, registerRecord s2.registry r = reg → filterRecord fb s = .ok () { s2 with
        registry := reg, lastFilter := BitVec.ofNat 32 r.inst.prog, pend := s2.pend ++ [r.inst] } := by
      rintro _ rfl
      exact hrun
    refine ⟨fun p hprog => ?_, fun hprog => ?_⟩
    · exact ends _ (runOp_ok (after _ (by rw [registerRecord, hprog])))
    · obtain ⟨_, hnew, -⟩ | ⟨-, hold⟩ := (parseRecord_legal hp).program
      · rw [hprog] at hnew
        cases hnew
      · exact ⟨_, List.getElem?_eq_getElem hold, ends _ (runOp_ok (after _ (registerRecord_old hprog hold)))⟩
  · dsimp only
    rw [toNat_and_seven]
    refine ⟨fun h => ?_, fun h hr => ?_, fun h hr => ?_⟩
    · rw [readRecordLen, if_neg (by omega), if_neg (by omega)]
      rfl
    · rw [readRecordLen, if_pos h, op_bind_ok (bcRead_ok hr)]
      rfl
    · rw [readRecordLen, if_neg (by omega), if_pos h, bcRead_ok hr]
end

section
/-! The compiler: the checksum, the standard filters, the static data and the commands of a blob (44_fvm_program.md R280 to
R286). -/

namespace Sys2Proof

variable {α β : Type}

/-! ### A command takes at least one bit -/

/-- A decoder that leaves no more bits than it is given. -/
def Shrinks (x : Pb α) : Prop := ∀ bits, (x bits).2.length ≤ bits.length

theorem Shrinks.pure (a : α) : Shrinks (Pure.pure a : Pb α) := fun _ => Nat.le_refl _

theorem Shrinks.bind {x : Pb α} {k : α → Pb β} (hx : Shrinks x) (hk : ∀ a, Shrinks (k a)) : Shrinks (x >>= k) :=
  fun bits => (hk _ _).trans (hx bits)

theorem Shrinks.ite {c : Prop} [Decidable c] {x y : Pb α} (hx : Shrinks x) (hy : Shrinks y) :
    Shrinks (if c then x else y) := by split <;> assumption

theorem shrinks_pbRead (n : Nat) : Shrinks (pbRead n) := fun bits => by
  change (bits.drop n).length ≤ _
  rw [List.length_drop]
  exact Nat.sub_le _ _

theorem shrinks_decodeVnum : Shrinks (decodeVnum pbRead) := by
  have hr := shrinks_pbRead
  refine .bind (.bind (hr 2) fun _ => .ite ?_ (.ite ?_ (.ite ?_ ?_))) fun _ => .pure _
  · exact .bind (hr 4) fun _ => .pure _
  · exact .bind (hr 4) fun _ => .ite (.bind (hr 8) fun _ => .pure _) (.bind (hr 4) fun _ => .pure _)
  · exact .bind (hr 16) fun _ => .pure _
  · exact .bind (hr 32) fun _ => .pure _

theorem shrinks_decodeOperand (bm : Bool) : Shrinks (decodeOperand bm) := by
  have hr := shrinks_pbRead
  have hv := shrinks_decodeVnum
  refine .bind (hr 1) fun _ => .ite ?_ (.bind (hr 1) fun _ => .ite (.ite ?_ ?_) (.bind (hr 1) fun _ => .ite ?_
    (.bind (hr 1) fun _ => .ite ?_ ?_)))
  · exact .bind (hr 3) fun _ => .pure _
  · exact .bind (hr 8) fun _ => .pure _
  · exact .bind hv fun _ => .pure _
  · exact .bind (hr 3) fun _ => .pure _
  · exact .bind (hr 3) fun _ => .bind hv fun _ => .pure _
  · exact .bind hv fun _ => .pure _

theorem shrinks_decodeBody (op : Nat) : Shrinks (decodeBody op) := by
  have hr := shrinks_pbRead
  have ho := shrinks_decodeOperand
  have hF2B : ∀ mk, Shrinks (decodeF2B mk) := fun mk =>
    .bind (hr 1) fun _ => .bind (ho _) fun _ => .bind (ho _) fun _ => .pure _
  have hF1B : ∀ mk, Shrinks (decodeF1B mk) := fun mk => .bind (hr 1) fun _ => .bind (ho _) fun _ => .pure _
  have hF2 : ∀ mk, Shrinks (decodeF2 mk) := fun mk => .bind (ho _) fun _ => .bind (ho _) fun _ => .pure _
  have hF1 : ∀ mk, Shrinks (decodeF1 mk) := fun mk => .bind (ho _) fun _ => .pure _
  unfold decodeBody
  split <;> simp only [hF2B, hF1B, hF2, hF1, Shrinks.pure]

/-- The opcode takes a bit where there is one, and the body gives none back (30_encoding.md R114). -/
theorem length_decodeCommand_lt {bits : List Bool} (h : bits ≠ []) :
    (decodeCommand bits).2.length < bits.length := by
  have hop : Shrinks (if fieldZ 1 bits = 0 then pbRead 3 else pbRead 5 >>= fun op5 => pure (op5 + 8)) :=
    .ite (shrinks_pbRead 3) (.bind (shrinks_pbRead 5) fun _ => .pure _)
  have hdrop : (bits.drop 1).length < bits.length := by
    rw [List.length_drop]
    exact Nat.sub_lt (List.length_pos_of_ne_nil h) Nat.one_pos
  exact ((shrinks_decodeBody _ _).trans (hop (bits.drop 1))).trans_lt hdrop

/-! ### Jumps -/

theorem rewriteTarget_of_ne_imm {idx : Nat} {op : Operand} (h : ∀ d, op ≠ .imm d) : rewriteTarget idx op = op := by
  cases op with
  | imm d => exact absurd rfl (h d)
  | _ => rfl

end Sys2Proof

namespace Sys2Proof.Machine

/-- Only the immediates of jumps and calls are rewritten (30_encoding.md R118). -/
theorem rewriteJump_of_no_target {idx : Nat} {i : Instr} (h : ∀ d, jumpOperand i ≠ some (.imm d) ∧ i ≠ .call (.imm d)) :
    rewriteJump idx i = i := by
  cases i with
  | jz a | jnz a | jmp a | js a | jns a | jb a | jbe a | ja a | jae a =>
    have ha : ∀ d, a ≠ .imm d := fun d e => (h d).1 (congrArg some e)
    rw [rewriteJump, rewriteTarget_of_ne_imm ha]
  | call a =>
    have ha : ∀ d, a ≠ .imm d := fun d e => (h d).2 (congrArg Instr.call e)
    rw [rewriteJump, rewriteTarget_of_ne_imm ha]
  | _ => rfl

/-! ### The commands of a blob -/

/-- The bits before command `k` of a program. -/
def commandBits (bits : List Bool) : Nat → List Bool
  | 0 => bits
  | k + 1 => (decodeCommand (commandBits bits k)).2

theorem commandBits_succ (bits : List Bool) (k : Nat) :
    commandBits bits (k + 1) = commandBits (decodeCommand bits).2 k := by
  induction k with
  | zero => rfl
  | succ k ih => exact congrArg (fun l => (decodeCommand l).2) ih

/-- Commands are decoded one after another while bits are left (44_fvm_program.md R284). -/
theorem decodeCommands_spec {fuel : Nat} {bits : List Bool} (idx : Nat) (h : bits.length ≤ fuel) :
    (∀ k < (decodeCommands fuel idx bits).length, commandBits bits k ≠ [] ∧
      (decodeCommands fuel idx bits)[k]? = some (rewriteJump (idx + k) (decodeCommand (commandBits bits k)).1)) ∧
    commandBits bits (decodeCommands fuel idx bits).length = [] := by
  induction fuel generalizing idx bits with
  | zero => exact ⟨fun _ hk => absurd hk (Nat.not_lt_zero _), List.length_eq_zero_iff.mp (Nat.le_zero.mp h)⟩
  | succ fuel ih =>
    by_cases hb : bits = []
    · subst hb
      exact ⟨fun _ hk => absurd hk (Nat.not_lt_zero _), rfl⟩
    · have hlt := length_decodeCommand_lt hb
      obtain ⟨hcmds, hend⟩ := ih (bits := (decodeCommand bits).2) (idx + 1) (by omega)
      rw [decodeCommands, if_neg (by simpa using hb)]
      refine ⟨fun k hk => ?_, (commandBits_succ _ _).trans hend⟩
      cases k with
      | zero => exact ⟨hb, rfl⟩
      | succ k =>
        rw [commandBits_succ, ← Nat.add_assoc, Nat.add_right_comm]
        exact hcmds k (Nat.lt_of_succ_lt_succ hk)

/-! ### The static data of a blob -/

/-- A field as the sum of its bits, a missing bit 0 (00_scope.md R13). -/
theorem fieldZ_eq_sum (n : Nat) (bits : List Bool) :
    fieldZ n bits = ((List.range n).map fun j => if bits.getD j false then 2 ^ (n - 1 - j) else 0).sum := by
  induction n generalizing bits with
  | zero => rfl
  | succ n ih =>
    rw [List.range_succ_eq_map, List.map_cons, List.sum_cons, List.map_map]
    cases bits with
    | nil => simp [fieldZ, Function.comp_def]
    | cons b bs =>
      rw [fieldZ, ih bs]
      congr 1
      · cases b <;> simp
      · refine congrArg List.sum (List.map_congr_left fun j _ => ?_)
        rw [Function.comp_apply, List.getD_cons_succ, Nat.succ_eq_add_one, Nat.add_sub_cancel, Nat.sub_add_eq,
          Nat.sub_right_comm]

theorem readStatic_stop {fuel limit : Nat} {bits : List Bool} (h : limit = 0 ∨ bits = []) :
    readStatic (fuel + 1) limit bits = ([], bits) := if_pos (by simpa using h)

theorem readStatic_byte {fuel limit : Nat} {bits : List Bool} (h : ¬ (limit = 0 ∨ bits = [])) :
    readStatic (fuel + 1) limit bits = (BitVec.ofNat 8 (fieldZ 8 bits) :: (readStatic fuel (limit - 1) (bits.drop 8)).1,
      (readStatic fuel (limit - 1) (bits.drop 8)).2) := if_neg (by simpa using h)

/-- How many bytes of static data are read: as many as asked for, or as begin within the bits (44_fvm_program.md R285). -/
def staticSize (limit : Nat) (bits : List Bool) : Nat := min limit ((bits.length + 7) / 8)

theorem staticSize_stop {limit : Nat} {bits : List Bool} (h : limit = 0 ∨ bits = []) : staticSize limit bits = 0 := by
  obtain rfl | rfl := h
  · exact Nat.zero_min _
  · exact Nat.min_zero _

theorem staticSize_byte {limit : Nat} {bits : List Bool} (h : ¬ (limit = 0 ∨ bits = [])) :
    staticSize limit bits = staticSize (limit - 1) (bits.drop 8) + 1 := by
  obtain ⟨hlimit, hbits⟩ := not_or.mp h
  have hpos := List.length_pos_of_ne_nil hbits
  rw [staticSize, staticSize, List.length_drop]
  omega

/-- The static data byte by byte, and the bits behind it. -/
theorem readStatic_eq {fuel limit : Nat} {bits : List Bool} (h : bits.length ≤ fuel) :
    readStatic fuel limit bits =
      ((List.range (staticSize limit bits)).map fun k => BitVec.ofNat 8 (fieldZ 8 (bits.drop (8 * k))),
        bits.drop (8 * staticSize limit bits)) := by
  induction fuel generalizing limit bits with
  | zero =>
    obtain rfl := List.length_eq_zero_iff.mp (Nat.le_zero.mp h)
    rw [staticSize_stop (.inr rfl)]
    rfl
  | succ fuel ih =>
    by_cases hstop : limit = 0 ∨ bits = []
    · rw [readStatic_stop hstop, staticSize_stop hstop]
      rfl
    · rw [readStatic_byte hstop, ih (by rw [List.length_drop]; omega), staticSize_byte hstop, List.range_succ_eq_map,
        List.map_cons, List.map_map]
      refine Prod.ext (congrArg (BitVec.ofNat 8 (fieldZ 8 bits) :: ·) (List.map_congr_left fun k _ => ?_)) ?_
      · rw [Function.comp_apply, List.drop_drop, Nat.mul_succ, Nat.add_comm]
      · rw [List.drop_drop, Nat.mul_succ, Nat.add_comm]

theorem length_readStatic (limit : Nat) (bits : List Bool) :
    (readStatic bits.length limit bits).1.length = staticSize limit bits := by
  rw [readStatic_eq (Nat.le_refl _), List.length_map, List.length_range]

/-- A byte of the static data as the sum of its bits (00_scope.md R13). -/
theorem getD_readStatic {limit k : Nat} {bits : List Bool} (hk : k < staticSize limit bits) :
    (readStatic bits.length limit bits).1.getD k 0 =
      BitVec.ofNat 8 ((List.range 8).map fun j => if bits.getD (8 * k + j) false then 2 ^ (7 - j) else 0).sum := by
  rw [readStatic_eq (Nat.le_refl _), List.getD_eq_getElem?_getD, List.getElem?_map, List.getElem?_range hk]
  refine congrArg (BitVec.ofNat 8) ((fieldZ_eq_sum 8 _).trans (congrArg List.sum (List.map_congr_left fun j _ => ?_)))
  rw [List.getD_eq_getElem?_getD, List.getElem?_drop, List.getD_eq_getElem?_getD]

/-- The first bit of a blob. -/
theorem pbRead_one (bits : List Bool) : pbRead 1 bits = ((bits.headD false).toNat, bits.drop 1) := by
  cases bits with
  | nil => rfl
  | cons b bs => cases b <;> rfl

/-- A first bit 0: no static data (44_fvm_program.md R285). -/
theorem decodeStatic_absent {bits : List Bool} (h : bits.headD false = false) : decodeStatic bits = ([], bits.drop 1) := by
  have hbit := pbRead_one bits
  rw [h] at hbit
  rw [decodeStatic, pb_bind hbit, if_neg (by decide)]
  rfl

/-- A first bit 1: a number and as many bytes, one more (44_fvm_program.md R285). -/
theorem decodeStatic_present {bits : List Bool} (h : bits.headD false = true) :
    let size : Word × List Bool := decodeVnum pbRead (bits.drop 1)
    decodeStatic bits = readStatic size.2.length (size.1.toNat + 1) size.2 := by
  have hbit := pbRead_one bits
  rw [h] at hbit
  exact (pb_bind hbit).trans rfl

/-! ### The program of a blob -/

section Compile
variable {sigs : List Signature} {code : List Byte}

/-- A signature names a blob by its length and its CRC (44_fvm_program.md R283). -/
def signatureNames (code : List Byte) (g : Signature) : Bool := g.codeLen == code.length && g.crc == crc32 code

theorem signatureNames_iff {g : Signature} : signatureNames code g = true ↔ g.codeLen = code.length ∧ g.crc = crc32 code := by
  rw [signatureNames, Bool.and_eq_true, beq_iff_eq, beq_iff_eq]

theorem findStandard_eq : findStandard sigs code = (sigs.find? (signatureNames code)).map (·.kind) := rfl

theorem findStandard_none (h : ∀ g ∈ sigs, ¬ (g.codeLen = code.length ∧ g.crc = crc32 code)) :
    findStandard sigs code = none := by
  rw [findStandard_eq, List.find?_eq_none.mpr fun g hg => mt signatureNames_iff.mp (h g hg)]
  rfl

/-- Where all signatures of a blob are of one kind, the blob is of that kind. -/
theorem findStandard_some {g : Signature} (hg : g ∈ sigs) (hn : g.codeLen = code.length ∧ g.crc = crc32 code)
    (hkind : ∀ g' ∈ sigs, g'.codeLen = code.length ∧ g'.crc = crc32 code → g'.kind = g.kind) :
    findStandard sigs code = some g.kind := by
  obtain ⟨g', hfind⟩ := Option.isSome_iff_exists.mp (List.find?_isSome.mpr ⟨g, hg, signatureNames_iff.mpr hn⟩)
  have hnamed := signatureNames_iff.mp (List.find?_some hfind)
  rw [findStandard_eq, hfind, Option.map_some, hkind g' (List.mem_of_find?_eq_some hfind) hnamed]

/-- A blob with the right checksum compiles, to STANDARD or to its own commands (44_fvm_program.md R281 to R286). -/
theorem compileBlob_eq (h : code.headD 0 = blobSum code) :
    compileBlob sigs code = match findStandard sigs code with
      | some k => some ⟨[.standard k, .ret], []⟩
      | none => some (decodeProgram (bytesBits (code.drop 1))) := if_neg (not_not_intro h)

/-- Every program ends in RET (44_fvm_program.md R286). -/
theorem compileBlob_getLast {p : FilterProgram} (h : compileBlob sigs code = some p) : p.cmds.getLast? = some .ret := by
  unfold compileBlob at h
  split at h
  · cases h
  · split at h <;> cases h
    · rfl
    · exact List.getLast?_concat ..

theorem exists_compileBlob (sigs : List Signature) (h : code.headD 0 = blobSum code) :
    ∃ p, compileBlob sigs code = some p := by
  rw [compileBlob_eq h]
  cases findStandard sigs code with
  | some k => exact ⟨_, rfl⟩
  | none => exact ⟨_, rfl⟩

end Compile

end Sys2Proof.Machine

open Sys2Proof Sys2Proof.Machine

/-- Settles O26: the checksum, the signatures, then the static data and the commands of the bits behind the first byte. -/
theorem compileResult : Obligations.CompileResult := by
  unfold Obligations.CompileResult
  refine ⟨fun sigs code => ⟨fun h => if_pos h, fun h => ⟨?_, fun g hg hn hkind => ?_, fun hnone => ?_⟩⟩,
    fun _ _ => rfl, fun _ _ => rewriteJump_of_no_target⟩
  · obtain ⟨p, hp⟩ := exists_compileBlob sigs h
    exact ⟨p, hp, compileBlob_getLast hp, (compileBlob_legal hp).2⟩
  · exact (compileBlob_eq h).trans (by rw [findStandard_some hg hn hkind])
  · have hprog : compileBlob sigs code = some (decodeProgram (bytesBits (code.drop 1))) :=
      (compileBlob_eq h).trans (by rw [findStandard_none hnone])
    have hcmds := decodeCommands_spec 0 (Nat.le_refl (decodeStatic (bytesBits (code.drop 1))).2.length)
    refine ⟨_, _, commandBits (decodeStatic (bytesBits (code.drop 1))).2, hprog, fun hbit => ?_, fun hbit => ?_,
      fun k hk => ?_, hcmds.2⟩
    · exact Prod.ext_iff.mp (decodeStatic_absent hbit)
    · have hstatic := decodeStatic_present hbit
      exact ⟨(congrArg (·.1.length) hstatic).trans (length_readStatic _ _),
        (congrArg (·.2) hstatic).trans (congrArg (·.2) (readStatic_eq (Nat.le_refl _))),
        fun k hk => (congrArg (·.1.getD k 0) hstatic).trans (getD_readStatic hk)⟩
    · obtain ⟨hne, hcmd⟩ := hcmds.1 k hk
      rw [Nat.zero_add] at hcmd
      exact ⟨hne, rfl, hcmd⟩
end

section
/-! The bit cursor: the field reads move it and nothing else, the cursor rows, and the copy of method STORED
(40_bitcursor.md R141 to R147, 43_unpack_engine.md R219). -/

namespace Sys2Proof.Machine

variable {α : Type} {s t u : State} {n : Nat}

/-! ### Reads move the cursor only -/

/-- From `s` to `u` the cursor alone has moved: forwards, and not past the end where it was not (40_bitcursor.md R143,
R144). -/
def State.ReadsTo (s u : State) : Prop :=
  u = { s with bc := u.bc } ∧ s.pos ≤ u.pos ∧ (s.pos ≤ s.endPos → u.pos ≤ s.endPos)

theorem State.ReadsTo.refl (s : State) : s.ReadsTo s := ⟨rfl, Nat.le_refl _, id⟩

theorem State.ReadsTo.endPos (h : s.ReadsTo t) : t.endPos = s.endPos := by
  rw [h.1]
  rfl

theorem State.ReadsTo.trans (hst : s.ReadsTo t) (htu : t.ReadsTo u) : s.ReadsTo u := by
  have hend := hst.endPos
  obtain ⟨ht, hpos, hle⟩ := hst
  obtain ⟨hu, hpos', hle'⟩ := htu
  refine ⟨?_, Nat.le_trans hpos hpos', fun h => hend ▸ hle' (hend ▸ hle h)⟩
  rw [hu, ht]

/-- A read whose bits are all there. -/
theorem State.ReadsTo.seek (h : s.pos + n ≤ s.endPos) : s.ReadsTo (s.seek (s.pos + n)) := by
  have hpos := State.pos_seek h
  exact ⟨rfl, by omega, fun _ => by omega⟩

theorem readsTo_keeping : Keeping State.ReadsTo := ⟨.refl, fun _ _ _ => .trans⟩

theorem bcRead_readsTo (n : Nat) : Within State.ReadsTo (bcRead n) := by
  intro s
  obtain ⟨hfits, h⟩ | ⟨-, h⟩ := bcRead_cases n s
  · rw [after_ok h]
    exact .seek hfits
  · rw [after_error h]
    exact .refl s

theorem readExtra_readsTo (n : Nat) : Within State.ReadsTo (readExtra n) :=
  .ite (fun _ => .pure readsTo_keeping _) fun _ => bcRead_readsTo n

theorem decodeWith_readsTo (h : HuffTable) : Within State.ReadsTo (decodeWith h) :=
  .bind readsTo_keeping State.ReadsTo.refl fun peeked => by
    cases h.bucket peeked with
    | none => exact .raise readsTo_keeping _
    | some bits =>
      exact .bind readsTo_keeping (bcRead_readsTo bits) fun _ =>
        .ite (fun _ => .raise readsTo_keeping _) fun _ => .pure readsTo_keeping _

theorem decodeSym_readsTo (i : TableId) : Within State.ReadsTo (decodeSym i) :=
  .get fun s => decodeWith_readsTo (s.tables.select i) s

theorem bcReadFields_readsTo (n : Nat) : Within State.ReadsTo (bcReadFields n) := by
  induction n with
  | zero => exact .pure readsTo_keeping _
  | succ n ih =>
    exact .bind readsTo_keeping (bcRead_readsTo 8) fun _ => .bind readsTo_keeping ih fun _ => .pure readsTo_keeping _

theorem readRecordLen_readsTo (fb : Byte) : Within State.ReadsTo (readRecordLen fb) :=
  .ite (fun _ => .bind readsTo_keeping (bcRead_readsTo 8) fun _ => .pure readsTo_keeping _) fun _ =>
    .ite (fun _ => bcRead_readsTo 16) fun _ => .pure readsTo_keeping _

theorem readMetaLengths_readsTo (n : Nat) (ml : List (BitVec 4)) : Within State.ReadsTo (readMetaLengths n ml) := by
  induction n generalizing ml with
  | zero => exact .pure readsTo_keeping _
  | succ n ih =>
    rw [readMetaLengths]
    exact .ite (fun _ => .pure readsTo_keeping _) fun _ => .bind readsTo_keeping (bcRead_readsTo 4) fun v =>
      .ite (fun _ => ih _) fun _ => .bind readsTo_keeping (bcRead_readsTo 4) fun z =>
        .ite (fun _ => ih _) fun _ => .ite (fun _ => .raise readsTo_keeping _) fun _ => ih _

/-- What every run of an operation keeps, its successful runs keep. -/
theorem Within.of_ok {R : State → State → Prop} {m : Op α} (hm : Within R m) {a : α} (h : m s = .ok a t) : R s t :=
  after_ok h ▸ hm s

/-! ### The cursor rows -/

/-- The bits a peek sees, as a number: the first bit most significant, a bit at or beyond the end 0 (40_bitcursor.md R141,
R142). -/
theorem State.peekVal_eq_sum (s : State) (n : Nat) :
    s.peekVal n = ((List.range n).map fun i =>
      (if s.pos + i < s.endPos ∧ (s.host.payload.read ((s.pos + i) / 8)).getLsbD ((s.pos + i) % 8) = true then 1 else 0) *
        2 ^ (n - 1 - i)).sum := by
  rw [State.peekVal, fieldZ_eq_sum]
  refine congrArg List.sum (List.map_congr_left fun i hi => ?_)
  have hbit : (s.peekBits n).getD i false = s.streamBit (s.pos + i) := by
    simp [State.peekBits, List.mem_range.mp hi]
  simp only [hbit, State.streamBit, Bool.and_eq_true, decide_eq_true_eq, ite_mul, Nat.one_mul, Nat.zero_mul]

theorem Memory.readRange_eq_map (m : Memory) (a n : Nat) : m.readRange a n = (List.range n).map fun i => m.read (a + i) := by
  refine List.ext_getElem (by simp [Memory.length_readRange]) fun i hi _ => ?_
  have hget := m.getD_readRange a (Memory.length_readRange m a n ▸ hi)
  rw [List.getD_eq_getElem _ _ hi] at hget
  simpa using hget

/-- An operation whose result goes to the port (entry 3). -/
theorem runOp_latch_ok {m : Op α} {f : α → UnitResult} {a : α} (h : m s = .ok a t) :
    runOp (latch (do let v ← m; pure (f v))) s = .next { t with port := f a } :=
  runOp_ok (op_bind_ok (op_bind_ok h))

theorem runOp_latch_raise {m : Op α} {f : α → UnitResult} {k : ErrKind} (h : m s = .error (.raise k) t) :
    runOp (latch (do let v ← m; pure (f v))) s = .next (t.raise k) :=
  runOp_raise (op_bind_error (op_bind_error h))

/-! ### Byte reads and method STORED -/

/-- The first whole byte at or behind the cursor (40_bitcursor.md R146). -/
def BitCursor.nextByte (c : BitCursor) : Nat := c.byte.toNat + (if c.bit = 0 then 0 else 1)

theorem bcReadBytes_ok (h : s.bc.nextByte + n ≤ s.host.plen.toNat) :
    bcReadBytes n s = .ok (s.host.payload.readRange s.bc.nextByte n)
      { s with bc := ⟨BitVec.ofNat 32 (s.bc.nextByte + n), 0⟩ } := by
  obtain ⟨-, e⟩ | ⟨hlt, -⟩ := bcReadBytes_cases n s
  · exact e
  · exact absurd h (Nat.not_le_of_lt hlt)

theorem bcReadBytes_short (h : s.host.plen.toNat < s.bc.nextByte + n) :
    bcReadBytes n s = .error (.raise .truncated) s := by
  obtain ⟨hle, -⟩ | ⟨-, e⟩ := bcReadBytes_cases n s
  · exact absurd hle (Nat.not_le_of_lt h)
  · exact e

/-- The step of a session in STORED is the copy (43_unpack_engine.md R219). -/
theorem step_stored (hc : s.host.ctrlStart = false) (hue : s.ue = .stored) : step s = runOp storedOp s := by
  have hplan : plan s = .act storedOp := by simp [plan, hc, hue]
  rw [step, hplan]

theorem storedOp_short (h : s.host.plen.toNat < s.bc.nextByte + s.host.unpackedSize.toNat) :
    storedOp s = .error (.raise .truncated) s :=
  (op_bind_ok (op_run_get s)).trans (op_bind_error (bcReadBytes_short h))

/-- The copy of a payload that is long enough: the window holds its bytes, and the session is complete. -/
theorem storedOp_ok (h : s.bc.nextByte + s.host.unpackedSize.toNat ≤ s.host.plen.toNat) :
    storedOp s = .ok () (State.complete { s with
      bc := ⟨BitVec.ofNat 32 (s.bc.nextByte + s.host.unpackedSize.toNat), 0⟩
      swb := ⟨s.swb.mem.writeRange 0 (s.host.payload.readRange s.bc.nextByte s.host.unpackedSize.toNat),
        s.host.unpackedSize⟩ }) :=
  (op_bind_ok (op_run_get s)).trans (op_bind_ok (bcReadBytes_ok h))

end Sys2Proof.Machine

open Sys2Proof Sys2Proof.Machine

/-- Settles O28: each of the five is made of bit reads, and a bit read moves the cursor only. -/
theorem fieldReadsMoveTheCursorOnly : Obligations.FieldReadsMoveTheCursorOnly := by
  unfold Obligations.FieldReadsMoveTheCursorOnly
  rintro n t fb ml s u (⟨_, h⟩ | ⟨_, h⟩ | ⟨_, h⟩ | ⟨_, h⟩ | ⟨_, h⟩)
  · exact (readExtra_readsTo n).of_ok h
  · exact (decodeSym_readsTo t).of_ok h
  · exact (bcReadFields_readsTo n).of_ok h
  · exact (readRecordLen_readsTo fb).of_ok h
  · exact (readMetaLengths_readsTo n ml).of_ok h

/-- Settles O27: each row runs its cursor operation and leaves the result on the port. -/
theorem bitCursorRows : Obligations.BitCursorRows := by
  unfold Obligations.BitCursorRows
  intro n k s value b
  have hvalue : BitVec.ofNat 32 (s.peekVal n.val) = value := congrArg _ (s.peekVal_eq_sum n.val)
  refine ⟨?_, fun hfits => ?_, fun hshort => ?_, rfl, fun hfits => ?_, fun hshort => ?_⟩
  · rw [← hvalue]
    exact runOp_latch_ok (f := fun v => .word (BitVec.ofNat 32 v)) (bcPeek_run n.val s)
  · rw [← hvalue]
    exact runOp_latch_ok (bcRead_ok (State.canRead_iff.mpr hfits))
  · exact runOp_latch_raise (bcRead_short (decide_eq_false (Nat.not_le_of_lt hshort)))
  · rw [← Memory.readRange_eq_map]
    exact runOp_latch_ok (bcReadBytes_ok hfits)
  · exact runOp_latch_raise (bcReadBytes_short hshort)

/-- Settles O49: the step is the copy, and the bytes it writes to the empty window read back as the payload's. -/
theorem storedCopiesThePayload : Obligations.StoredCopiesThePayload := by
  unfold Obligations.StoredCopiesThePayload
  intro s hc hue hbc hmem n
  have hstart : s.bc.nextByte = 0 := by rw [hbc]; rfl
  rw [step_stored hc hue]
  refine ⟨fun hshort => ?_, fun hfits => ?_⟩
  · exact runOp_raise (storedOp_short (by rwa [hstart, Nat.zero_add]))
  · refine ⟨_, runOp_ok (storedOp_ok (by rwa [hstart, Nat.zero_add])), rfl, rfl, rfl, rfl, fun a ha => ?_, ?_, rfl, rfl,
      rfl, rfl⟩
    · change (s.swb.mem.writeRange 0 (s.host.payload.readRange s.bc.nextByte n)).read a = s.host.payload.read a
      rw [hmem, hstart, Memory.read_writeRange_nil (by rwa [Memory.length_readRange]), Memory.getD_readRange _ _ ha,
        Nat.zero_add]
    · change BitCursor.mk (BitVec.ofNat 32 (s.bc.nextByte + s.host.unpackedSize.toNat)) 0 = ⟨s.host.unpackedSize, 0⟩
      rw [hstart, Nat.zero_add, BitVec.ofNat_toNat, BitVec.setWidth_eq]
end

section
/-! The SymbolDecoder and the rows HTB.BUILD and SD.DECODE (41_huffman.md R160, R175 to R178). -/

namespace Sys2Proof.Machine

variable {h : HuffTable} {s : State} {bits p : Nat}

/-- The length bucket is the least length whose boundary lies above the peeked bits (41_huffman.md R176). -/
theorem HuffTable.bucket_eq_some (h1 : 1 ≤ bits) (h15 : bits ≤ 15) (hp : p < h.decodeLen.getD bits 0)
    (hleast : ∀ l, 1 ≤ l → l < bits → h.decodeLen.getD l 0 ≤ p) : h.bucket p = some bits := by
  obtain ⟨k, rfl⟩ := Nat.exists_eq_add_of_le' h1
  rw [HuffTable.bucket, List.find?_map, Option.map_eq_some_iff]
  refine ⟨k, List.find?_range_eq_some.mpr ⟨decide_eq_true hp, List.mem_range.mpr (by omega), fun j hj => ?_⟩, rfl⟩
  simpa using hleast (j + 1) (by omega) (by omega)

theorem HuffTable.bucket_eq_none (hp : ∀ l, 1 ≤ l → l ≤ 15 → h.decodeLen.getD l 0 ≤ p) : h.bucket p = none := by
  rw [HuffTable.bucket, List.find?_map, Option.map_eq_none_iff, List.find?_eq_none]
  intro k hk
  have hk := List.mem_range.mp hk
  simpa using hp (k + 1) (by omega) (by omega)

/-- A pattern above every code: nothing is consumed (41_huffman.md R178). -/
theorem decodeWith_no_bucket (hb : h.bucket (s.peekVal 16) = none) :
    decodeWith h s = .error (.raise .corruptStream) s := by
  refine (op_bind_ok (bcPeek_run 16 s)).trans ?_
  rw [hb]
  rfl

/-- A code that is cut by the end (41_huffman.md R178). -/
theorem decodeWith_short (hb : h.bucket (s.peekVal 16) = some bits) (hshort : s.endPos < s.pos + bits) :
    decodeWith h s = .error (.raise .truncated) s := by
  refine (op_bind_ok (bcPeek_run 16 s)).trans ?_
  rw [hb]
  exact op_bind_error (bcRead_short (decide_eq_false (Nat.not_le_of_lt hshort)))

/-- A code that is whole: its bits are consumed, and the index gives its symbol (41_huffman.md R176). -/
theorem decodeWith_ok (hb : h.bucket (s.peekVal 16) = some bits) (hfits : s.pos + bits ≤ s.endPos)
    (hi : h.index bits (s.peekVal 16) < h.nUsed) :
    decodeWith h s = .ok (h.decodeNum.getD (h.index bits (s.peekVal 16)) 0) (s.seek (s.pos + bits)) := by
  refine (op_bind_ok (bcPeek_run 16 s)).trans ?_
  rw [hb]
  refine (op_bind_ok (bcRead_ok (State.canRead_iff.mpr hfits))).trans ?_
  rw [op_run_ite, if_neg (Nat.not_le_of_lt hi), op_run_pure]

end Sys2Proof.Machine

open Sys2Proof Sys2Proof.Machine

/-- Settles O31: the build's two outcomes, and the decoder's three by the bucket of the peeked bits. -/
theorem huffmanRows : Obligations.HuffmanRows := by
  unfold Obligations.HuffmanRows
  intro t len s h p
  refine ⟨fun g hg => runOp_ok (htbBuild_ok hg), fun hnone => runOp_raise (htbBuild_none hnone), fun habove => ?_,
    fun bits h1 h15 hp hleast => ?_⟩
  · have hb : h.bucket p = none := HuffTable.bucket_eq_none habove
    exact runOp_latch_raise ((decodeSym_run t s).trans (decodeWith_no_bucket hb))
  · have hb : h.bucket p = some bits := HuffTable.bucket_eq_some h1 h15 hp hleast
    refine ⟨fun hshort => ?_, fun hfits hx => ?_⟩
    · exact runOp_latch_raise ((decodeSym_run t s).trans (decodeWith_short hb hshort))
    · exact runOp_latch_ok ((decodeSym_run t s).trans (decodeWith_ok hb hfits hx))
end

section
/-! What the HuffmanTableBuilder accepts and what a built table holds (41_huffman.md R160 to R171). -/

namespace Sys2Proof.Machine

variable {len : List (BitVec 4)} {n l x k : Nat} {h : HuffTable}

/-! ### Counting entries is counting indices -/

/-- The first entries of an array, by index. -/
theorem map_getD_range (hk : k ≤ len.length) : (List.range k).map (len.getD · 0) = len.take k := by
  refine List.ext_getElem (by simp [hk]) fun i hi _ => ?_
  have hi : i < len.length := by simp at hi; omega
  simp [hi]

theorem countP_take_eq_length (q : BitVec 4 → Bool) (hk : k ≤ len.length) :
    (len.take k).countP q = ((List.range k).filter fun x => q (len.getD x 0)).length := by
  rw [← map_getD_range hk, List.countP_map, List.countP_eq_length_filter]
  rfl

theorem countP_eq_length (len : List (BitVec 4)) (q : BitVec 4 → Bool) :
    len.countP q = ((List.range len.length).filter fun x => q (len.getD x 0)).length := by
  rw [← countP_take_eq_length q (Nat.le_refl _), List.take_length]

/-- An index a filter keeps stands behind the kept indices below it. -/
theorem getElem?_filter_range {q : Nat → Bool} (hx : x < n) (hq : q x = true) :
    ((List.range n).filter q)[((List.range x).filter q).length]? = some x := by
  obtain ⟨k, rfl⟩ := Nat.exists_eq_add_of_lt hx
  rw [Nat.add_assoc, List.range_add, List.filter_append, List.getElem?_append_right (Nat.le_refl _), Nat.sub_self,
    List.range_succ_eq_map, List.map_cons, Nat.add_zero, List.filter_cons_of_pos hq]
  rfl

/-! ### The symbols by length, then by index -/

theorem mem_symbolsOfLen : x ∈ symbolsOfLen len l ↔ x < len.length ∧ (len.getD x 0).toNat = l := by
  rw [symbolsOfLen, List.mem_filter, List.mem_range, beq_iff_eq]

theorem length_symbolsOfLen (hl : l ≠ 0) : (symbolsOfLen len l).length = lenCount len l := by
  rw [lenCount, if_neg hl, countP_eq_length]
  rfl

/-- The symbols of the lengths 1 to `k` (41_huffman.md R167). -/
def symbolsUpTo (len : List (BitVec 4)) (k : Nat) : List Nat := (List.range k).flatMap fun j => symbolsOfLen len (j + 1)

theorem sortedSymbols_eq (len : List (BitVec 4)) : sortedSymbols len = symbolsUpTo len 15 := rfl

theorem symbolsUpTo_succ (len : List (BitVec 4)) (k : Nat) :
    symbolsUpTo len (k + 1) = symbolsUpTo len k ++ symbolsOfLen len (k + 1) := by
  rw [symbolsUpTo, List.range_succ, List.flatMap_append, List.flatMap_singleton, symbolsUpTo]

/-- The position of a length is the number of symbols with a shorter code (41_huffman.md R165). -/
theorem length_symbolsUpTo (len : List (BitVec 4)) (k : Nat) : (symbolsUpTo len k).length = decodePosAt len (k + 1) := by
  induction k with
  | zero => rfl
  | succ k ih =>
    rw [symbolsUpTo_succ, List.length_append, ih, length_symbolsOfLen (Nat.succ_ne_zero k)]
    rfl

theorem mem_sortedSymbols : x ∈ sortedSymbols len ↔ x < len.length ∧ len.getD x 0 ≠ 0 := by
  simp only [sortedSymbols, List.mem_flatMap, List.mem_range, mem_symbolsOfLen]
  constructor
  · rintro ⟨k, -, hx, hk⟩
    exact ⟨hx, fun h0 => Nat.succ_ne_zero k (hk.symm.trans (congrArg BitVec.toNat h0))⟩
  · rintro ⟨hx, h0⟩
    have hlt := (len.getD x 0).isLt
    have hpos : (len.getD x 0).toNat ≠ 0 := fun e => h0 (BitVec.eq_of_toNat_eq e)
    exact ⟨(len.getD x 0).toNat - 1, by omega, hx, by omega⟩

/-- The order of the symbols: by code length, then by index (41_huffman.md R170). -/
theorem pairwise_sortedSymbols (len : List (BitVec 4)) :
    (sortedSymbols len).Pairwise fun a b =>
      (len.getD a 0).toNat < (len.getD b 0).toNat ∨ ((len.getD a 0).toNat = (len.getD b 0).toNat ∧ a < b) := by
  refine List.pairwise_flatMap.mpr ⟨fun k _ => ?_, List.pairwise_lt_range.imp fun {j k} hjk a ha b hb => ?_⟩
  · refine (List.pairwise_lt_range.filter _).imp_of_mem fun {a b} ha hb hab => .inr ⟨?_, hab⟩
    rw [(mem_symbolsOfLen.mp ha).2, (mem_symbolsOfLen.mp hb).2]
  · have ha := (mem_symbolsOfLen.mp ha).2
    have hb := (mem_symbolsOfLen.mp hb).2
    exact .inl (by omega)

/-- The symbols are those indices that have a code, in another order. -/
theorem length_sortedSymbols (len : List (BitVec 4)) : (sortedSymbols len).length = len.countP fun x => x != 0 := by
  rw [countP_eq_length]
  refine List.Perm.length_eq ((List.perm_ext_iff_of_nodup ?_ (List.nodup_range.filter _)).mpr fun x => ?_)
  · refine (pairwise_sortedSymbols len).imp fun {a b} hab => ?_
    rintro rfl
    omega
  · rw [mem_sortedSymbols, List.mem_filter, List.mem_range, bne_iff_ne]

/-- The symbols of length `l` stand from position `l` on (41_huffman.md R165, R167). -/
theorem getElem?_sortedSymbols (h1 : 1 ≤ l) (h15 : l ≤ 15) (hx : (symbolsOfLen len l)[k]? = some x) :
    (sortedSymbols len)[decodePosAt len l + k]? = some x := by
  obtain ⟨j, rfl⟩ := Nat.exists_eq_add_of_le' h1
  have hprefix : symbolsUpTo len (j + 1) <+: sortedSymbols len :=
    List.IsPrefix.flatMap (List.prefix_iff_eq_take.mpr (by rw [List.length_range, List.take_range]; congr 1; omega)) _
  obtain ⟨rest, hrest⟩ := hprefix
  rw [← hrest, symbolsUpTo_succ, List.append_assoc, ← length_symbolsUpTo, List.getElem?_append_right (Nat.le_add_right _ _),
    Nat.add_sub_cancel_left]
  exact List.getElem?_append_left (List.getElem?_eq_some_iff.mp hx).1 |>.trans hx

/-! ### Boundaries -/

/-- The codes of a length begin at the boundary of the length before it (41_huffman.md R163, R164). -/
theorem firstCode_mul (hl : l < 15) : firstCode len (l + 1) * 2 ^ (15 - l) = decodeLenAt len l := by
  cases l with
  | zero => simp [firstCode, lenCount, decodeLenAt]
  | succ l =>
    rw [firstCode, decodeLenAt, if_neg (Nat.succ_ne_zero l), show 16 - (l + 1) = 15 - (l + 1) + 1 by omega, Nat.pow_succ]
    ring

/-- A boundary lies above the one before it by the room its codes take. -/
theorem decodeLenAt_succ (hl : l < 15) :
    decodeLenAt len (l + 1) = decodeLenAt len l + lenCount len (l + 1) * 2 ^ (15 - l) := by
  rw [← firstCode_mul hl, ← Nat.add_mul, decodeLenAt, if_neg (Nat.succ_ne_zero l),
    show 16 - (l + 1) = 15 - l from Nat.add_sub_add_right 15 1 l]

theorem decodeLenAt_mono (hkl : k ≤ l) (hl : l ≤ 15) : decodeLenAt len k ≤ decodeLenAt len l := by
  induction l, hkl using Nat.le_induction with
  | base => exact Nat.le_refl _
  | succ l _ ih =>
    rw [decodeLenAt_succ hl]
    exact Nat.le_add_right_of_le (ih (by omega))

/-! ### The builder -/

theorem overSubscribed_iff : overSubscribed len = true ↔ ∃ l, 1 ≤ l ∧ l ≤ 15 ∧ 2 ^ l < firstCode len l + lenCount len l := by
  simp only [overSubscribed, List.any_eq_true, List.mem_range, decide_eq_true_eq]
  constructor
  · rintro ⟨k, hk, hlt⟩
    exact ⟨k + 1, by omega, by omega, hlt⟩
  · rintro ⟨l, h1, h15, hlt⟩
    exact ⟨l - 1, by omega, by rwa [Nat.sub_add_cancel h1]⟩

/-- Where check (a) does not fire, every length holds its codes (41_huffman.md R166). -/
theorem codes_fit (hover : overSubscribed len = false) (h1 : 1 ≤ l) (h15 : l ≤ 15) :
    firstCode len l + lenCount len l ≤ 2 ^ l :=
  Nat.not_lt.mp fun hlt => Bool.false_ne_true (hover.symm.trans (overSubscribed_iff.mpr ⟨l, h1, h15, hlt⟩))

/-- No boundary of a code that is not oversubscribed lies above 0x10000 (41_huffman.md R166, R171). -/
theorem decodeLenAt_le (hover : overSubscribed len = false) (hl : l ≤ 15) : decodeLenAt len l ≤ 0x10000 := by
  unfold decodeLenAt
  split
  · exact Nat.zero_le _
  · have hroom := codes_fit hover (by omega) hl
    calc (firstCode len l + lenCount len l) * 2 ^ (16 - l) ≤ 2 ^ l * 2 ^ (16 - l) := Nat.mul_le_mul_right _ hroom
      _ = 0x10000 := by rw [← Nat.pow_add, Nat.add_sub_cancel' (by omega)]

/-- The table of a code (41_huffman.md R164, R165, R167). -/
def canonicalTable (len : List (BitVec 4)) : HuffTable :=
  { decodeLen := (List.range 16).map (decodeLenAt len)
    decodePos := (List.range 16).map (decodePosAt len)
    decodeNum := sortedSymbols len
    nUsed := (sortedSymbols len).length }

/-- `Build`: of the three checks the first alone can fire, and the size (41_huffman.md R166). -/
theorem buildTable_eq (n : Nat) (len : List (BitVec 4)) :
    buildTable n len =
      if overSubscribed len = true then none else if len.length ≠ n then none else some (canonicalTable len) := by
  have hused : decodePosAt len 15 + lenCount len 15 = (sortedSymbols len).length := (length_symbolsUpTo len 15).symm
  have hzero : ¬ lenCount len 0 ≠ 0 := not_not_intro rfl
  simp only [buildTable, hused, length_sortedSymbols, if_neg hzero, ne_eq, not_true, if_false, canonicalTable]

theorem buildTable_eq_none : buildTable n len = none ↔ overSubscribed len = true ∨ len.length ≠ n := by
  rw [buildTable_eq, ite_eq_left_iff, ite_eq_left_iff, or_iff_not_imp_left]
  simp only [reduceCtorEq, imp_false, not_not]

theorem buildTable_eq_some :
    buildTable n len = some h ↔ overSubscribed len = false ∧ len.length = n ∧ canonicalTable len = h := by
  rw [buildTable_eq]
  split_ifs with hover hsize
  · simp [hover]
  · simp [hsize]
  · simp [hover, not_not.mp hsize]

@[simp] theorem canonicalTable_decodeLen (hl : l < 16) (d : Nat) :
    (canonicalTable len).decodeLen.getD l d = decodeLenAt len l := by
  simp [canonicalTable, hl]

@[simp] theorem canonicalTable_decodePos (hl : l < 16) (d : Nat) :
    (canonicalTable len).decodePos.getD l d = decodePosAt len l := by
  simp [canonicalTable, hl]

end Sys2Proof.Machine

open Sys2Proof Sys2Proof.Machine

/-- Settles O29: a boundary lies above the one before it by its codes' room, and the symbols are those of each length in
turn. -/
theorem tableBuildSpec : Obligations.TableBuildSpec := by
  unfold Obligations.TableBuildSpec
  refine ⟨fun n len => ?_, fun n len h hbuild => ?_⟩
  · rw [buildTable_eq_none, overSubscribed_iff, or_comm]
  · obtain ⟨hover, rfl, rfl⟩ := buildTable_eq_some.mp hbuild
    refine ⟨rfl, rfl, rfl, fun l hl => ?_, length_sortedSymbols len, rfl, pairwise_sortedSymbols len,
      fun x => mem_sortedSymbols⟩
    rw [canonicalTable_decodeLen (by omega), canonicalTable_decodeLen (by omega), canonicalTable_decodePos (by omega),
      canonicalTable_decodePos (by omega)]
    refine ⟨decodeLenAt_mono (Nat.le_succ l) hl, decodeLenAt_le hover hl, rfl, ?_⟩
    rw [decodeLenAt_succ hl, left_eq_add, mul_eq_zero, or_iff_left (Nat.two_pow_pos _).ne']
end

section
/-! The canonical codes decode back (41_huffman.md R180). -/

namespace Sys2Proof.Machine

variable {len : List (BitVec 4)} {l x m n p : Nat} {s : State} {t : TableId}

/-! ### The codes of a length -/

/-- The rank of a symbol among the symbols of its length (41_huffman.md R170). -/
def rankOf (len : List (BitVec 4)) (x : Nat) : Nat := (len.take x).countP fun y => y == len.getD x 0

theorem codeOf_eq (hl : (len.getD x 0).toNat = l) : codeOf len x = firstCode len l + rankOf len x := by
  rw [codeOf, hl, rankOf]

/-- A symbol stands at its rank among the symbols of its length. -/
theorem getElem?_symbolsOfLen (hx : x < len.length) (hl : (len.getD x 0).toNat = l) :
    (symbolsOfLen len l)[rankOf len x]? = some x := by
  have hrank : rankOf len x = ((List.range x).filter fun y => (len.getD y 0).toNat == l).length := by
    rw [rankOf, countP_take_eq_length _ hx.le]
    refine congrArg List.length (List.filter_congr fun y _ => ?_)
    rw [Bool.eq_iff_iff, beq_iff_eq, beq_iff_eq, ← hl, BitVec.toNat_inj]
  rw [hrank]
  exact getElem?_filter_range hx (beq_iff_eq.mpr hl)

theorem rankOf_lt (hx : x < len.length) (h1 : 1 ≤ l) (hl : (len.getD x 0).toNat = l) : rankOf len x < lenCount len l := by
  rw [← length_symbolsOfLen (Nat.ne_of_gt h1)]
  exact (List.getElem?_eq_some_iff.mp (getElem?_symbolsOfLen hx hl)).1

/-- A code fits its length where the length holds its codes (41_huffman.md R166). -/
theorem codeOf_lt (hover : overSubscribed len = false) (hx : x < len.length) (h1 : 1 ≤ l) (h15 : l ≤ 15)
    (hl : (len.getD x 0).toNat = l) : codeOf len x < 2 ^ l := by
  have hroom := codes_fit hover h1 h15
  have hrank := rankOf_lt hx h1 hl
  rw [codeOf_eq hl]
  omega

/-! ### The bits of a code in front -/

/-- A field whose first bits are given: they are its high part (00_scope.md R13). -/
theorem fieldZ_append (xs ys : List Bool) (n : Nat) :
    fieldZ (xs.length + n) (xs ++ ys) = fieldZ xs.length xs * 2 ^ n + fieldZ n ys := by
  induction xs with
  | nil => simp [fieldZ]
  | cons b xs ih =>
    rw [List.length_cons, Nat.add_right_comm, List.cons_append, fieldZ, ih, fieldZ, Nat.pow_add]
    ring

/-- A move to where the cursor stands. -/
theorem State.seek_pos (s : State) : s.seek s.pos = s := by
  have hbyte : BitVec.ofNat 32 (s.pos / 8) = s.bc.byte := by
    unfold State.pos
    bv_omega
  have hbit : BitVec.ofNat 3 (s.pos % 8) = s.bc.bit := by
    unfold State.pos
    bv_omega
  rw [State.seek, hbyte, hbit]

theorem State.length_peekBits (s : State) (n : Nat) : (s.peekBits n).length = n := by simp [State.peekBits]

/-- Bits beyond a position are the bits from it on. -/
theorem State.peekBits_add (h : s.pos + m ≤ s.endPos) (n : Nat) :
    s.peekBits (m + n) = s.peekBits m ++ (s.seek (s.pos + m)).peekBits n := by
  simp only [State.peekBits, List.range_add, List.map_append, List.map_map, State.pos_seek h, Function.comp_def,
    Nat.add_assoc]
  rfl

/-- What a wider peek sees of a value in front of it: the value is its high part. -/
theorem State.peekVal_of_prefix (h : s.pos + m ≤ s.endPos) (hmn : m ≤ n) {v : Nat} (hv : v < 2 ^ m)
    (hbits : s.peekBits m = fieldBits m v) :
    v * 2 ^ (n - m) ≤ s.peekVal n ∧ s.peekVal n < (v + 1) * 2 ^ (n - m) := by
  have hfield : fieldZ m (fieldBits m v) = v := by
    simpa [Nat.mod_eq_of_lt hv] using fieldZ_fieldBits m v []
  have hpeek : s.peekVal n = v * 2 ^ (n - m) + fieldZ (n - m) ((s.seek (s.pos + m)).peekBits (n - m)) := by
    have happend := fieldZ_append (fieldBits m v) ((s.seek (s.pos + m)).peekBits (n - m)) (n - m)
    rw [Laws.fieldBits_length, hfield, ← hbits, ← State.peekBits_add h, Nat.add_sub_cancel' hmn] at happend
    exact happend
  have hlow := fieldZ_lt (n - m) ((s.seek (s.pos + m)).peekBits (n - m))
  rw [hpeek, Nat.succ_mul]
  omega

/-! ### A code decodes to its symbol -/

/-- The 16 bits that begin with the code of rank `r` among those of length `l` lie in the bucket of that length
(41_huffman.md R176). -/
theorem bucket_of_code {r : Nat} (h1 : 1 ≤ l) (h15 : l ≤ 15) (hr : r < lenCount len l)
    (hlow : (firstCode len l + r) * 2 ^ (16 - l) ≤ p) (hhigh : p < (firstCode len l + r + 1) * 2 ^ (16 - l)) :
    (canonicalTable len).bucket p = some l ∧ (canonicalTable len).index l p = decodePosAt len l + r := by
  obtain ⟨k, rfl⟩ := Nat.exists_eq_add_of_le' h1
  have hstart : decodeLenAt len k = firstCode len (k + 1) * 2 ^ (16 - (k + 1)) := by
    rw [show 16 - (k + 1) = 15 - k from Nat.add_sub_add_right 15 1 k, firstCode_mul h15]
  constructor
  · refine HuffTable.bucket_eq_some h1 h15 ?_ fun j _ hj => ?_
    · rw [canonicalTable_decodeLen (by omega), decodeLenAt, if_neg (Nat.succ_ne_zero k)]
      exact hhigh.trans_le (Nat.mul_le_mul_right _ (by omega))
    · rw [canonicalTable_decodeLen (by omega)]
      calc decodeLenAt len j ≤ decodeLenAt len k := decodeLenAt_mono (by omega) (by omega)
        _ ≤ (firstCode len (k + 1) + r) * 2 ^ (16 - (k + 1)) := by
          rw [hstart]
          exact Nat.mul_le_mul_right _ (Nat.le_add_right _ _)
        _ ≤ p := hlow
  · rw [HuffTable.index, canonicalTable_decodePos (by omega), Nat.add_sub_cancel, canonicalTable_decodeLen (by omega),
      hstart]
    congr 1
    rw [Nat.add_mul] at hlow
    rw [Nat.add_assoc, Nat.add_mul] at hhigh
    exact Nat.div_eq_of_lt_le (by omega) (by omega)

/-- One symbol: its canonical bits at the cursor decode to it (41_huffman.md R180). -/
theorem decodeSym_encodeSym (hbuild : buildTable (tableSize t) len = some (s.tables.select t)) (hx : x < tableSize t)
    (hcode : len.getD x 0 ≠ 0) (hfits : s.pos + (encodeSym len x).length ≤ s.endPos)
    (hbits : s.peekBits (encodeSym len x).length = encodeSym len x) :
    decodeSym t s = .ok x (s.seek (s.pos + (encodeSym len x).length)) := by
  obtain ⟨hover, hsize, htable⟩ := buildTable_eq_some.mp hbuild
  rw [← hsize] at hx
  obtain ⟨l, hl⟩ : ∃ l, (len.getD x 0).toNat = l := ⟨_, rfl⟩
  have h1 : 1 ≤ l := Nat.pos_of_ne_zero fun h0 => hcode (BitVec.eq_of_toNat_eq (hl.trans h0))
  have h15 : l ≤ 15 := Nat.le_of_lt_succ (hl ▸ (len.getD x 0).isLt)
  rw [encodeSym, hl, Laws.fieldBits_length] at hfits hbits ⊢
  obtain ⟨hlow, hhigh⟩ := State.peekVal_of_prefix (n := 16) hfits (by omega) (codeOf_lt hover hx h1 h15 hl) hbits
  rw [codeOf_eq hl] at hlow hhigh
  obtain ⟨hbucket, hindex⟩ := bucket_of_code h1 h15 (rankOf_lt hx h1 hl) hlow hhigh
  have hget := getElem?_sortedSymbols h1 h15 (getElem?_symbolsOfLen hx hl)
  rw [decodeSym_run, ← htable, decodeWith_ok hbucket hfits (hindex ▸ (List.getElem?_eq_some_iff.mp hget).1), hindex,
    canonicalTable, List.getD_eq_getElem?_getD, hget]
  rfl

/-- A sequence of symbols: each decodes where the one before it ends (41_huffman.md R180). -/
theorem decodeSyms_encodeSyms {syms : List Nat} (hbuild : buildTable (tableSize t) len = some (s.tables.select t))
    (hsyms : ∀ x ∈ syms, x < tableSize t ∧ len.getD x 0 ≠ 0) (hfits : s.pos + (encodeSyms len syms).length ≤ s.endPos)
    (hbits : s.peekBits (encodeSyms len syms).length = encodeSyms len syms) :
    decodeSyms t syms.length s = .ok syms (s.seek (s.pos + (encodeSyms len syms).length)) := by
  induction syms generalizing s with
  | nil => exact congrArg (EStateM.Result.ok []) s.seek_pos.symm
  | cons x xs ih =>
    obtain ⟨⟨hx, hcode⟩, hxs⟩ := List.forall_mem_cons.mp hsyms
    have hcons : encodeSyms len (x :: xs) = encodeSym len x ++ encodeSyms len xs := rfl
    rw [hcons, List.length_append] at hfits hbits ⊢
    have hfirst : s.pos + (encodeSym len x).length ≤ s.endPos := by omega
    rw [State.peekBits_add hfirst] at hbits
    obtain ⟨hhead, htail⟩ := List.append_inj hbits (s.length_peekBits _)
    have hrest := ih (s := s.seek (s.pos + (encodeSym len x).length)) hbuild hxs
      (by rw [State.pos_seek hfirst, State.endPos_seek]; omega) htail
    rw [State.seek_add (State.canRead_iff.mpr hfirst)] at hrest
    exact (op_bind_ok (decodeSym_encodeSym hbuild hx hcode hfirst hhead)).trans (op_bind_ok hrest)

/-- Bits given one by one, as a list. -/
theorem State.peekBits_eq {bs : List Bool} (h : ∀ k < bs.length, s.streamBit (s.pos + k) = bs.getD k false) :
    s.peekBits bs.length = bs := by
  refine List.ext_getElem (s.length_peekBits _) fun k _ hk => ?_
  rw [← List.getD_eq_getElem bs false hk, ← h k hk]
  simp [State.peekBits]

end Sys2Proof.Machine

open Sys2Proof Sys2Proof.Machine

/-- Settles O30, by induction on the sequence: a code's bits lie in the bucket of its length, at the index of its symbol. -/
theorem huffmanRoundTrip : Obligations.HuffmanRoundTrip := by
  unfold Obligations.HuffmanRoundTrip
  rintro t len _ syms s hbuild hsyms rfl hfits hbits
  exact decodeSyms_encodeSyms hbuild hsyms hfits (State.peekBits_eq hbits)
end

section
/-! The window, the distance ring and the repeated distances (42_window.md R192 to R203, 43_unpack_engine.md R232). -/

namespace Sys2Proof.Machine

variable {s s2 s3 : State} {d n i : Nat}

/-! ### The checks of a copy -/

/-- The three checks of a copy (42_window.md R196). -/
theorem State.copyAllowed_iff {len dist : Word} : s.copyAllowed len dist = true ↔
    dist ≠ 0 ∧ dist.toNat ≤ s.spaceLen ∧ s.swb.wptr.toNat + len.toNat ≤ s.host.unpackedSize.toNat := by
  simp only [State.copyAllowed, Bool.and_eq_true, bne_iff_ne, decide_eq_true_eq, and_assoc]

/-! ### The window space after one byte -/

/-- The window is the part of the window space behind the visible history (42_window.md R193). -/
theorem State.spaceByte_histVisible_add (s : State) (a : Nat) : s.spaceByte (s.histVisible + a) = s.swb.mem.read a := by
  rw [State.spaceByte, if_neg (Nat.not_lt_of_le (Nat.le_add_right _ _)), Nat.add_sub_cancel_left]

theorem State.toNat_wptr_emit (b : Byte) (h : s.swb.wptr.toNat + 1 < 2 ^ 32) :
    (s.emit b).swb.wptr.toNat = s.swb.wptr.toNat + 1 := by
  rw [State.emit_swb, Window.append_wptr]
  exact BitVec.toNat_add_of_lt h

theorem State.spaceLen_emit (b : Byte) (h : s.swb.wptr.toNat + 1 < 2 ^ 32) : (s.emit b).spaceLen = s.spaceLen + 1 :=
  congrArg (s.histVisible + ·) (State.toNat_wptr_emit b h)

/-- An appended byte is the one at the end of the window space, and every other is as before (42_window.md R193, R195). -/
theorem State.spaceByte_emit (h : s.swb.mem.wf = true) (b : Byte) (i : Nat) :
    (s.emit b).spaceByte i = if i = s.spaceLen then b else s.spaceByte i := by
  obtain hlt | ⟨a, rfl⟩ : i < s.histVisible ∨ ∃ a, i = s.histVisible + a :=
    (Nat.lt_or_ge i s.histVisible).imp_right Nat.exists_eq_add_of_le
  · have hne : i ≠ s.spaceLen := (hlt.trans_le (Nat.le_add_right _ _)).ne
    rw [if_neg hne]
    exact (if_pos hlt).trans (if_pos hlt).symm
  · rw [s.spaceByte_histVisible_add]
    refine ((s.emit b).spaceByte_histVisible_add a).trans ((Memory.read_write h _ b a).trans (if_congr ?_ rfl rfl))
    exact (Nat.add_right_inj).symm

/-! ### The bytes of a copy -/

/-- A copy writes the window and nothing else (42_window.md R198). -/
theorem State.copyBytes_frame (d n : Nat) (s : State) : s.copyBytes d n = { s with swb := (s.copyBytes d n).swb } := by
  induction n generalizing s with
  | zero => rfl
  | succ n ih => exact ih _

theorem State.copyBytes_histVisible (d n : Nat) (s : State) : (s.copyBytes d n).histVisible = s.histVisible := by
  rw [s.copyBytes_frame]
  rfl

theorem State.copyBytes_wptr (d n : Nat) (s : State) : (s.copyBytes d n).swb.wptr = s.swb.wptr + BitVec.ofNat 32 n := by
  induction n generalizing s with
  | zero => exact (BitVec.add_zero _).symm
  | succ n ih =>
    rw [State.copyBytes, ih, State.emit_swb, Window.append_wptr, BitVec.add_assoc, Nat.add_comm n, BitVec.ofNat_add]
    rfl

/-- A copy keeps every byte of the window space but those it appends (42_window.md R198). -/
theorem State.copyBytes_spaceByte_other (hwf : s.swb.mem.wf = true) (hlen : s.swb.wptr.toNat + n < 2 ^ 32)
    (hi : i < s.spaceLen ∨ s.spaceLen + n ≤ i) : (s.copyBytes d n).spaceByte i = s.spaceByte i := by
  induction n generalizing s with
  | zero => rfl
  | succ n ih =>
    obtain ⟨b, hb⟩ : ∃ b, s.spaceByte (s.spaceLen - d) = b := ⟨_, rfl⟩
    have hwptr := State.toNat_wptr_emit b (s := s) (by omega)
    have hspace := State.spaceLen_emit b (s := s) (by omega)
    have hrest := ih (s := s.emit b) (Memory.wf_write hwf _ _) (by omega) (by omega)
    rw [State.copyBytes, hb, hrest, State.spaceByte_emit hwf, if_neg (by omega)]

/-- The bytes a copy appends repeat the `d` bytes before it: after the first one, the `d` bytes before the rest are those of
the period turned by one (42_window.md R197, R198). -/
theorem State.copyBytes_spaceByte_copied (hwf : s.swb.mem.wf = true) (hlen : s.swb.wptr.toNat + n < 2 ^ 32) (h0 : 0 < d)
    (hd : d ≤ s.spaceLen) {j : Nat} (hj : j < n) :
    (s.copyBytes d n).spaceByte (s.spaceLen + j) = s.spaceByte (s.spaceLen - d + j % d) := by
  induction n generalizing s j with
  | zero => exact absurd hj (Nat.not_lt_zero j)
  | succ n ih =>
    obtain ⟨b, hb⟩ : ∃ b, s.spaceByte (s.spaceLen - d) = b := ⟨_, rfl⟩
    have hwptr := State.toNat_wptr_emit b (s := s) (by omega)
    have hspace := State.spaceLen_emit b (s := s) (by omega)
    have hwf' : (s.emit b).swb.mem.wf = true := Memory.wf_write hwf _ _
    rw [State.copyBytes, hb]
    cases j with
    | zero =>
      rw [State.copyBytes_spaceByte_other hwf' (by omega) (.inl (by omega)), State.spaceByte_emit hwf,
        if_pos (Nat.add_zero _), Nat.zero_mod, Nat.add_zero, hb]
    | succ j =>
      have hrest := ih hwf' (by omega) (by omega) (Nat.lt_of_succ_lt_succ hj)
      have hmod := Nat.mod_lt j h0
      rw [hspace, Nat.add_assoc, Nat.add_comm 1 j, State.spaceByte_emit hwf] at hrest
      rw [hrest, ← Nat.mod_add_mod j d 1]
      obtain hlast | hlast : j % d + 1 = d ∨ j % d + 1 < d := by omega
      · rw [if_pos (by omega), hlast, Nat.mod_self, Nat.add_zero, hb]
      · rw [if_neg (by omega), Nat.mod_eq_of_lt hlast]
        exact congrArg s.spaceByte (by omega)

/-! ### Rows -/

/-- RING.SELECT: the ring moved, the selected distance on the result port (42_window.md R201, entry 3). -/
theorem exec_ringSelect (k : Fin 4) (s : State) :
    exec (.ringSelect k) s = .next { s with ring := selectRing s.ring k, port := .word (s.ring.get k) } :=
  runOp_latch_ok (f := UnitResult.word) (ringSelect_run k s)

theorem exec_of_repdRows {k : Fin 4} {i : Instr} (h : repdRows[k.val]? = some i) (s : State) :
    exec i s = runOp (repdOp k) s := by
  fin_cases k <;> cases h <;> rfl

/-- A repeated distance with its fields read ends in its copy, the last match written before it (43_unpack_engine.md R232). -/
theorem repdOp_run {k : Fin 4} {r x : Nat} (hr : decodeSym .rd { s with ring := selectRing s.ring k } = .ok r s2)
    (hx : readExtra (lbits r) s2 = .ok x s3) :
    let len := BitVec.ofNat 32 (lbase r + 2 + x)
    repdOp k s = winCopy len (s.ring.get k) { s3 with last := ⟨len, s.ring.get k⟩ } := by
  rw [repdOp, op_bind_ok (ringSelect_run k s), op_bind_ok hr, op_bind_ok hx]
  rfl

end Sys2Proof.Machine

open Sys2Proof Sys2Proof.Machine

/-- Settles O33, by induction on the length, over the window space: an appended byte turns the period by one. -/
theorem copyIsPeriodic : Obligations.CopyIsPeriodic := by
  unfold Obligations.CopyIsPeriodic
  intro s len dist hwf hok t
  obtain ⟨hne, hreach, hfits⟩ := State.copyAllowed_iff.mp hok
  have hpos : 0 < dist.toNat := Nat.pos_of_ne_zero fun h => hne (BitVec.eq_of_toNat_eq h)
  have hlen : s.swb.wptr.toNat + len.toNat < 2 ^ 32 := hfits.trans_lt s.host.unpackedSize.isLt
  have hread (a : Nat) : t.swb.mem.read a = t.spaceByte (s.histVisible + a) := by
    rw [← State.copyBytes_histVisible dist.toNat len.toNat s]
    exact (t.spaceByte_histVisible_add a).symm
  refine ⟨State.copyBytes_frame _ _ s, ?_, fun j hj => ?_, fun a ha => ?_⟩
  · rw [State.copyBytes_wptr, BitVec.ofNat_toNat, BitVec.setWidth_eq]
  · rw [hread, ← Nat.add_assoc]
    exact State.copyBytes_spaceByte_copied hwf hlen hpos hreach hj
  · rw [hread, ← s.spaceByte_histVisible_add a]
    refine State.copyBytes_spaceByte_other hwf hlen ?_
    rw [State.spaceLen]
    omega

/-- Settles O32: each row by the equation of its operation, `winPut_run` and `winCopy_run`. -/
theorem windowRows : Obligations.WindowRows := by
  unfold Obligations.WindowRows
  intro b len dist s hv ok
  have hok : s.copyAllowed len dist = true ↔ ok := State.copyAllowed_iff
  refine ⟨fun h => ?_, fun h => ?_, fun h => ?_, fun h => ?_⟩
  · exact runOp_raise ((winPut_run b s).trans (if_pos h))
  · exact runOp_ok ((winPut_run b s).trans (if_neg h))
  · exact runOp_raise ((winCopy_run len dist s).trans (if_neg (mt hok.mp h)))
  · exact runOp_ok (winCopy_ok (hok.mpr h))

/-- Settles O34: `insertRing` and `selectRing` on a ring given by its four entries. -/
theorem ringRows : Obligations.RingRows := by
  unfold Obligations.RingRows
  intro d len dist a b c e s hring
  have hinsert : insertRing s.ring d = #v[d, a, b, c] := by rw [hring]; rfl
  have hselect (k : Fin 4) : exec (.ringSelect k) s =
      .next { s with ring := selectRing #v[a, b, c, e] k, port := .word ((#v[a, b, c, e] : Vector Word 4).get k) } :=
    hring ▸ exec_ringSelect k s
  refine ⟨?_, hselect 0, hselect 1, hselect 2, hselect 3, runOp_ok (setLast_run len dist s)⟩
  rw [← hinsert]
  exact runOp_ok (ringInsert_run d s)

/-- Settles O38: the ring, then the fields, then the copy. -/
theorem repeatDistanceResults : Obligations.RepeatDistanceResults := by
  unfold Obligations.RepeatDistanceResults
  intro k i r x s s2 s3 hi hr hx
  have hexec := exec_of_repdRows hi s
  have hrun := repdOp_run hr hx
  exact ⟨fun h => hexec.trans (runOp_ok (hrun.trans (winCopy_ok h))),
    fun h => hexec.trans (runOp_raise (hrun.trans (winCopy_raise h)))⟩
end

section
/-! What a step is, by what its state plans (43_unpack_engine.md R215, R218, R224, R227, 44_fvm_program.md R289 to R291). -/

namespace Sys2Proof.Machine

variable {s t : State} {i : FilterInstance} {p : FilterProgram} {c : Instr} {x : Nat}

/-! ### From the plan to the step -/

theorem step_act {m : Op Unit} (h : plan s = .act m) : step s = runOp m s := by rw [step, h]

theorem step_fetch_ok {m : Op Instr} (h : plan s = .fetch m) (hm : m s = .ok c t) : step s = exec c t := by
  simp only [step, h, hm]

theorem step_fetch_raise {m : Op Instr} {k : ErrKind} (h : plan s = .fetch m) (hm : m s = .error (.raise k) t) :
    step s = .next (t.raise k) := by
  simp only [step, h, hm]

/-! ### The plan of each phase -/

theorem plan_symbols (hc : s.host.ctrlStart = false) (hue : s.ue = .decodingSymbols) : plan s = checkpoint s fetchLd := by
  simp [plan, hc, hue]

theorem plan_header (hc : s.host.ctrlStart = false) (hue : s.ue = .readingTables) (hh : s.hdr = .start) :
    plan s = checkpoint s (pure .blockHeader) := by
  simp [plan, hc, hue, hh]

theorem plan_lengths (hc : s.host.ctrlStart = false) (hue : s.ue = .readingTables) (hh : s.hdr = .lengths) :
    plan s = .fetch fetchMd := by
  simp [plan, hc, hue, hh]

theorem plan_applyFilter (hc : s.host.ctrlStart = false) (hue : s.ue = .applyFilter) : plan s = planFilter s := by
  simp [plan, hc, hue]

/-- The symbol loop or the place before a block header: where a step begins with the checkpoint (43_unpack_engine.md
R218). -/
def State.AtCheckpoint (s : State) : Prop := s.ue = .decodingSymbols ∨ (s.ue = .readingTables ∧ s.hdr = .start)

theorem plan_atCheckpoint (hc : s.host.ctrlStart = false) (h : s.AtCheckpoint) : ∃ next, plan s = checkpoint s next := by
  obtain hue | ⟨hue, hh⟩ := h
  · exact ⟨_, plan_symbols hc hue⟩
  · exact ⟨_, plan_header hc hue hh⟩

/-! ### The checkpoint -/

/-- With no filter to start the session ends where the output is complete, and goes on elsewhere. -/
theorem checkpoint_idle (next : Op Instr) (h : ∀ i ∈ s.pend.head?, s.ready i = false) :
    checkpoint s next =
      if s.swb.wptr = s.host.unpackedSize then .act (modify State.complete) else .fetch next := by
  unfold checkpoint
  cases hp : s.pend with
  | nil => rfl
  | cons i l =>
    have hr : s.ready i = false := h i (by rw [hp]; rfl)
    simp only [hr, Bool.false_eq_true, if_false]

theorem checkpoint_ready {l : List FilterInstance} (next : Op Instr) (hp : s.pend = i :: l) (hr : s.ready i = true) :
    checkpoint s next = .act (applyStart i) := by
  simp only [checkpoint, hp, hr, if_true]

/-- With a ready head of the queue a step starts that filter (43_unpack_engine.md R259, R260). -/
theorem step_applyStart {e : RegEntry} {l : List FilterInstance} (hc : s.host.ctrlStart = false) (h : s.AtCheckpoint)
    (hp : s.pend = i :: l) (hr : s.ready i = true) (he : s.registry[i.prog]? = some e) :
    step s = .next { s with ret := s.ue, ue := .applyFilter, fvm := loadFvm e.prog i (s.blockBytes i) } := by
  obtain ⟨next, hplan⟩ := plan_atCheckpoint hc h
  rw [checkpoint_ready next hp hr] at hplan
  exact (step_act hplan).trans (runOp_ok (applyStart_ok he hr))

/-! ### The fetches -/

theorem fetchLd_run (hx : decodeSym .ld s = .ok x t) (hi : ldInstr x = .ok c) : fetchLd s = .ok c t := by
  rw [fetchLd, op_bind_ok hx, hi]
  rfl

theorem fetchMd_run (hx : decodeSym .md s = .ok x t) (hi : mdInstr x = .ok c) : fetchMd s = .ok c t := by
  rw [fetchMd, op_bind_ok hx, hi]
  rfl

/-- Below the ceiling a command is counted (44_fvm_program.md R289). -/
theorem fetchCommand_below (h : s.fvm.ops < s.cfg.fvmMaxOps) (hc : c.isCommand = true) :
    fetchCommand c s = .ok c { s with fvm := s.fvm.countOp } := by
  simp only [fetchCommand, op_run_bind, op_run_get, op_run_ite, if_pos h, if_pos hc, op_run_set, op_run_pure]

/-- At the ceiling nothing is counted (44_fvm_program.md R291). -/
theorem fetchCommand_ceiling (h : s.cfg.fvmMaxOps ≤ s.fvm.ops) :
    fetchCommand c s = .error (.raise .filterOverrun) s := by
  simp only [fetchCommand, op_run_bind, op_run_get, op_run_ite, if_neg (Nat.not_lt_of_le h), op_run_raise]

/-! ### A running filter -/

/-- The filter that runs is `i` with the program `p`, and no start is pending. -/
structure State.Runs (s : State) (i : FilterInstance) (p : FilterProgram) : Prop where
  noStart : s.host.ctrlStart = false
  phase : s.ue = .applyFilter
  running : s.running = some (i, p)

/-- The execution has ended, or `ip` is beyond the last command (44_fvm_program.md R290). -/
def State.AtEnd (s : State) (p : FilterProgram) : Prop := s.fvm.ended = true ∨ p.cmds[s.fvm.ip.toNat]? = none

theorem planFilter_end (hrun : s.running = some (i, p)) (hend : s.AtEnd p) : planFilter s = .act (finishHead i) := by
  obtain he | hip := hend
  · simp only [planFilter, hrun, he, if_true]
  · simp only [planFilter, hrun, hip, ite_self]

theorem planFilter_command (hrun : s.running = some (i, p)) (he : s.fvm.ended = false)
    (hip : p.cmds[s.fvm.ip.toNat]? = some c) : planFilter s = .fetch (fetchCommand c) := by
  simp only [planFilter, hrun, he, hip, Bool.false_eq_true, if_false]

/-- A running filter's step below the ceiling is the command at `ip`, counted. -/
theorem step_command (h : s.Runs i p) (he : s.fvm.ended = false) (hip : p.cmds[s.fvm.ip.toNat]? = some c)
    (hops : s.fvm.ops < s.cfg.fvmMaxOps) (hcmd : c.isCommand = true) :
    step s = exec c { s with fvm := s.fvm.countOp } :=
  step_fetch_ok ((plan_applyFilter h.noStart h.phase).trans (planFilter_command h.running he hip))
    (fetchCommand_below hops hcmd)

theorem step_ceiling (h : s.Runs i p) (he : s.fvm.ended = false) (hip : p.cmds[s.fvm.ip.toNat]? = some c)
    (hops : s.cfg.fvmMaxOps ≤ s.fvm.ops) : step s = .next (s.raise .filterOverrun) :=
  step_fetch_raise ((plan_applyFilter h.noStart h.phase).trans (planFilter_command h.running he hip))
    (fetchCommand_ceiling hops)

theorem step_atEnd (h : s.Runs i p) (hend : s.AtEnd p) : step s = runOp (finishHead i) s :=
  step_act ((plan_applyFilter h.noStart h.phase).trans (planFilter_end h.running hend))

/-- The write-back of a result of the range's length (43_unpack_engine.md R262). -/
theorem applyFinish_ok (h : (extractResult s.fvm.mem).length = i.blockLength.toNat) :
    applyFinish i s = .ok () { s with
      swb := { s.swb with mem := s.swb.mem.writeRange i.blockStart.toNat (extractResult s.fvm.mem) }, ue := s.ret } :=
  (applyFinish_run i s).trans (if_pos h)

theorem applyFinish_raise (h : (extractResult s.fvm.mem).length ≠ i.blockLength.toNat) :
    applyFinish i s = .error (.raise .corruptStream) s :=
  (applyFinish_run i s).trans (if_neg h)

end Sys2Proof.Machine

open Sys2Proof Sys2Proof.Machine

/-- Settles O46: by the end of the execution and by the ceiling. -/
theorem stepRunsTheCommandAtIp : Obligations.StepRunsTheCommandAtIp := by
  unfold Obligations.StepRunsTheCommandAtIp
  intro i p s hc hue hrunning
  have hrun : s.Runs i p := ⟨hc, hue, hrunning⟩
  refine ⟨fun c he hip hops hcmd => step_command hrun he hip hops hcmd, fun c he hip hops => step_ceiling hrun he hip hops,
    fun hend => ?_⟩
  rw [step_atEnd hrun (hend.imp_right List.getElem?_eq_none)]
  exact ⟨fun hlen => runOp_ok (op_bind_ok (applyFinish_ok hlen)),
    fun hlen => runOp_raise (op_bind_error (applyFinish_raise hlen))⟩

/-- Settles O47: by the phase, then by the checkpoint. -/
theorem stepRunsTheDecodedSymbol : Obligations.StepRunsTheDecodedSymbol := by
  unfold Obligations.StepRunsTheDecodedSymbol
  intro s hc idle open'
  have hopen (next : Op Instr) (hidle : idle) (ho : open') : checkpoint s next = .fetch next :=
    (checkpoint_idle next hidle).trans (if_neg ho)
  refine ⟨fun hue hidle ho x i t hx hi => ?_, fun hue hidle ho k t hx => ?_, fun hue hh hidle ho => ?_,
    fun hue hh x i t hx hi => ?_, fun hue hidle hdone => ?_, fun hue i l e hp hr he => step_applyStart hc hue hp hr he⟩
  · exact step_fetch_ok ((plan_symbols hc hue).trans (hopen _ hidle ho)) (fetchLd_run hx hi)
  · exact step_fetch_raise ((plan_symbols hc hue).trans (hopen _ hidle ho)) (op_bind_error hx)
  · exact step_fetch_ok ((plan_header hc hue hh).trans (hopen _ hidle ho)) (op_run_pure _ s)
  · exact step_fetch_ok (plan_lengths hc hue hh) (fetchMd_run hx hi)
  · obtain ⟨next, hplan⟩ := plan_atCheckpoint hc hue
    rw [checkpoint_idle next hidle, if_pos (not_not.mp hdone)] at hplan
    exact (step_act hplan).trans (runOp_ok (op_run_modify State.complete s))
end

section
/-! Apply and Drain in one piece, and the same Apply one command a step (43_unpack_engine.md R259 to R262, entries 1
and 15). -/

namespace Sys2Proof.Machine

variable {s t u : State} {i : FilterInstance} {p : FilterProgram} {e : RegEntry} {l : List FilterInstance}

/-! ### Apply -/

/-- The state in which an Apply of `i` with the program `p` begins its run (R260). -/
def State.applying (s : State) (p : FilterProgram) (i : FilterInstance) : State :=
  { s with ret := s.ue, ue := .applyFilter, fvm := loadFvm p i (s.blockBytes i) }

/-- An Apply is the run of the program its filter names, then the write-back. -/
theorem applyInstance_run (he : s.registry[i.prog]? = some e) (hr : s.ready i = true) :
    applyInstance i s = (fvmRun e.prog s.cfg.fvmMaxOps >>= fun _ => applyFinish i) (s.applying e.prog i) := by
  rw [applyInstance, op_bind_ok (lookupProgram_ok he), op_bind_ok (applyStart_ok he hr)]
  rfl

/-- An Apply that does not fault has its program in the registry (entry 16). -/
theorem exists_program_of_applyInstance (h : applyInstance i s ≠ .error (.fault .noSuchProgram) s) :
    ∃ e, s.registry[i.prog]? = some e := by
  refine Option.ne_none_iff_exists'.mp fun hnone => h (op_bind_error ?_)
  rw [lookupProgram, op_bind_ok (op_run_get s), hnone]
  rfl

/-- The run of an Apply reaches the FVM only (20_memory.md R61). -/
theorem eq_applying_of_fvmRun (h : fvmRun p s.cfg.fvmMaxOps (s.applying p i) = .ok () u) :
    u = { s.applying p i with fvm := u.fvm } := by
  have hrun := sameButFvm_runClosed.fvmRun p s.cfg.fvmMaxOps (s.applying p i) (Nat.zero_add _).le
  rwa [after_ok h] at hrun

/-- An Apply leaves the queue as it was: removal is Drain's. -/
theorem applyInstance_pend (hr : s.ready i = true) (h : applyInstance i s = .ok () t) : t.pend = s.pend := by
  obtain ⟨e, he⟩ := exists_program_of_applyInstance (by rw [h]; nofun)
  rw [applyInstance_run he hr] at h
  obtain ⟨_, u, hrun, hfin⟩ := op_bind_eq_ok h
  obtain ⟨-, -, hpend⟩ := applyFinish_eq_ok hfin
  rw [hpend, eq_applying_of_fvmRun hrun]
  rfl

/-! ### Drain -/

theorem drain_run (s : State) : drain s = drainLoop s.pend.length s := rfl

theorem drain_nil (h : s.pend = []) : drain s = .ok () s := drainLoop_nil _ h

theorem drain_notReady (h : s.pend = i :: l) (hr : s.ready i = false) : drain s = .ok () s := by
  rw [drain_run, h, List.length_cons, drainLoop_cons _ h, hr, if_neg Bool.false_ne_true]

/-- Drain with a ready head: its Apply, its removal, Drain again (R259). -/
theorem drain_ready (h : s.pend = i :: l) (hr : s.ready i = true) (happly : applyInstance i s = .ok () t) :
    drain s = drain { t with pend := l } := by
  have hpop : t.popPend = { t with pend := l } := by
    rw [State.popPend, applyInstance_pend hr happly, h]
    rfl
  rw [drain_run, h, List.length_cons, drainLoop_cons _ h, if_pos hr, op_bind_ok happly,
    op_bind_ok (op_run_modify State.popPend t), hpop]
  rfl

theorem runOp_congr {m n : Op Unit} (h : m s = n t) : runOp m s = runOp n t := by
  unfold runOp
  rw [h]

/-! ### Several steps -/

/-- Some number of steps leads from `s` to `t`. -/
def State.StepsTo (s t : State) : Prop := ∃ k, runSteps k s = .next t

theorem State.StepsTo.refl (s : State) : s.StepsTo s := ⟨0, rfl⟩

theorem State.StepsTo.head (hst : step s = .next t) (htu : t.StepsTo u) : s.StepsTo u := by
  obtain ⟨k, hk⟩ := htu
  exact ⟨k + 1, by simp only [runSteps, hst, hk]⟩

theorem State.StepsTo.single (h : step s = .next t) : s.StepsTo t := .head h (.refl t)

theorem State.StepsTo.trans (hst : s.StepsTo t) (htu : t.StepsTo u) : s.StepsTo u := by
  obtain ⟨k, hk⟩ := hst
  induction k generalizing s with
  | zero =>
    cases hk
    exact htu
  | succ k ih =>
    rw [runSteps] at hk
    cases hs : step s with
    | next v =>
      rw [hs] at hk
      exact .head hs (ih hk)
    | fault r => rw [hs] at hk; cases hk
    | refused r => rw [hs] at hk; cases hk

/-! ### The run by steps -/

/-- A running filter keeps running whatever the FVM holds. -/
theorem State.Runs.setFvm (h : s.Runs i p) (f : Fvm) : State.Runs { s with fvm := f } i p :=
  ⟨h.noStart, h.phase, h.running⟩

/-- What the steps of a running filter make of an outcome of its run loop: they reach the end of the execution, or
the raise. -/
def State.Reaches (s : State) (i : FilterInstance) (p : FilterProgram) : EStateM.Result Stop State Unit → Prop
  | .ok _ u => s.StepsTo u ∧ u.Runs i p ∧ u.AtEnd p
  | .error (.raise k) u => s.StepsTo (u.raise k)
  | .error _ _ => True

theorem State.Reaches.head {r : EStateM.Result Stop State Unit} (hst : step s = .next t) (h : t.Reaches i p r) :
    s.Reaches i p r := by
  cases r with
  | ok _ _ =>
    obtain ⟨hsteps, hend⟩ := h
    exact ⟨.head hst hsteps, hend⟩
  | error e _ =>
    cases e with
    | raise k => exact State.StepsTo.head hst h
    | fault _ => trivial
    | refuse _ => trivial

/-- A step of a running filter below the ceiling runs the FVM operation of the command at `ip` on the counted state. -/
theorem step_commandOp {c : Instr} {m : FvmOp Unit} (h : s.Runs i p) (hended : s.fvm.ended = false)
    (hip : p.cmds[s.fvm.ip.toNat]? = some c) (hops : s.fvm.ops < s.cfg.fvmMaxOps)
    (hm : commandOp s.cfg.native c = some m) : step s = runFvm m { s with fvm := s.fvm.countOp } := by
  have hcmd : c.isCommand = true := by rw [← commandOp_isSome s.cfg.native, hm, Option.isSome_some]
  exact (step_command h hended hip hops hcmd).trans (exec_command hm)

theorem fvmRun_notACommand {c : Instr} (k : Nat) (hip : p.cmds[s.fvm.ip.toNat]? = some c)
    (hm : commandOp s.cfg.native c = none) : fvmRun p (k + 1) s = .error (.fault .notACommand) s := by
  simp only [fvmRun, op_run_bind, op_run_get, hip, hm, op_run_throw]

/-- The steps of a running filter follow its run loop, the fuel being what the count leaves below the ceiling. -/
theorem reaches_fvmRun {k : Nat} (h : s.Runs i p) (hended : s.fvm.ended = false)
    (hops : s.fvm.ops + k = s.cfg.fvmMaxOps) : s.Reaches i p (fvmRun p k s) := by
  induction k generalizing s with
  | zero =>
    cases hip : p.cmds[s.fvm.ip.toNat]? with
    | none =>
      rw [fvmRun_end 0 hip]
      exact ⟨.refl s, h, .inr hip⟩
    | some c =>
      rw [fvmRun_zero hip]
      exact .single (step_ceiling h hended hip hops.ge)
  | succ k ih =>
    cases hip : p.cmds[s.fvm.ip.toNat]? with
    | none =>
      rw [fvmRun_end _ hip]
      exact ⟨.refl s, h, .inr hip⟩
    | some c =>
      cases hm : commandOp s.cfg.native c with
      | none =>
        rw [fvmRun_notACommand k hip hm]
        trivial
      | some m =>
        have hstep := step_commandOp h hended hip (by omega) hm
        rw [fvmRun_succ k hip hm]
        cases hf : m s.fvm.countOp with
        | error k' f => exact .single (hstep.trans (runFvm_raise hf))
        | ok a f =>
          have hnext : step s = .next { s with fvm := f } := hstep.trans (runFvm_ok hf)
          by_cases he : f.ended = true
          · simp only [if_pos he]
            exact ⟨.single hnext, h.setFvm f, .inl he⟩
          · have hcount : f.ops = s.fvm.ops + 1 := fvmAfter_ok hf ▸ command_ops hm s.fvm.countOp
            simp only [if_neg he]
            refine .head hnext (ih (h.setFvm f) (Bool.eq_false_of_not_eq_true he) ?_)
            change f.ops + k = s.cfg.fvmMaxOps
            omega

/-- The state a started filter runs in. -/
theorem applying_runs (hc : s.host.ctrlStart = false) (hp : s.pend = i :: l) (he : s.registry[i.prog]? = some e) :
    (s.applying e.prog i).Runs i e.prog :=
  ⟨hc, rfl, by simp only [State.running, State.applying, hp, he, Option.map_some]⟩

/-- Where an Apply of the head does not fault, a step starts it and the steps from there follow its run. -/
theorem step_starts_apply (hc : s.host.ctrlStart = false) (hcheck : s.AtCheckpoint) (hp : s.pend = i :: l)
    (hr : s.ready i = true) (h : applyInstance i s ≠ .error (.fault .noSuchProgram) s) :
    ∃ e, s.registry[i.prog]? = some e ∧ step s = .next (s.applying e.prog i) ∧
      (s.applying e.prog i).Reaches i e.prog (fvmRun e.prog s.cfg.fvmMaxOps (s.applying e.prog i)) := by
  obtain ⟨e, he⟩ := exists_program_of_applyInstance h
  exact ⟨e, he, step_applyStart hc hcheck hp hr he, reaches_fvmRun (applying_runs hc hp he) rfl (Nat.zero_add _)⟩

end Sys2Proof.Machine

open Sys2Proof Sys2Proof.Machine

/-- Settles O44: an Apply is its run and its write-back, a Drain is the rounds of its loop. -/
theorem applyAndDrainResults : Obligations.ApplyAndDrainResults := by
  unfold Obligations.ApplyAndDrainResults
  intro i e s start
  refine ⟨fun he hr u hrun => ?_, fun hp => runOp_ok (drain_nil hp), fun l hp hr => runOp_ok (drain_notReady hp hr),
    fun l u hp hr happly hue => ?_⟩
  · have hsame : u = { start with fvm := u.fvm } := eq_applying_of_fvmRun hrun
    have hswb : u.swb = s.swb := by rw [hsame]
    have hret : u.ret = s.ue := by rw [hsame]
    have happly : applyInstance i s = applyFinish i u := (applyInstance_run he hr).trans (op_bind_ok hrun)
    intro out
    refine ⟨fun hlen => ?_, fun hlen => runOp_raise (happly.trans (applyFinish_raise hlen))⟩
    rw [← hswb, ← hret]
    exact runOp_ok (happly.trans (applyFinish_ok hlen))
  · obtain hok | ⟨k, v, -, rfl⟩ := runOp_eq_next happly
    · exact runOp_congr (drain_ready hp hr hok)
    · exact absurd rfl hue

/-- Settles O58: a step starts the filter, the steps of its commands follow the run loop, a step writes back. -/
theorem applyIsItsSteps : Obligations.ApplyIsItsSteps := by
  unfold Obligations.ApplyIsItsSteps
  intro i l s hc hp hr hue
  refine ⟨fun t ht => ?_, fun k t ht => ?_⟩
  · obtain ⟨e, he, hstart, hrun⟩ := step_starts_apply hc hue hp hr (by rw [ht]; nofun)
    have hpend : t.pend = i :: l := (applyInstance_pend hr ht).trans hp
    rw [applyInstance_run he hr] at ht
    obtain ⟨_, u, hu, hfin⟩ := op_bind_eq_ok ht
    rw [hu] at hrun
    obtain ⟨hsteps, hruns, hend⟩ := hrun
    have hlast : step u = .next t.popPend := (step_atEnd hruns hend).trans (runOp_ok (op_bind_ok hfin))
    rw [State.popPend, hpend] at hlast
    exact State.StepsTo.head hstart (hsteps.trans (.single hlast))
  · obtain ⟨e, he, hstart, hrun⟩ := step_starts_apply hc hue hp hr (by rw [ht]; nofun)
    rw [applyInstance_run he hr] at ht
    obtain hraise | ⟨_, u, hu, hfin⟩ := op_bind_eq_error ht
    · rw [hraise] at hrun
      exact State.StepsTo.head hstart hrun
    · rw [hu] at hrun
      obtain ⟨hsteps, hruns, hend⟩ := hrun
      have hlast : step u = .next (t.raise k) :=
        (step_atEnd hruns hend).trans (runOp_raise (op_bind_error hfin))
      exact State.StepsTo.head hstart (hsteps.trans (.single hlast))
end

section
/-! The literal, the repetition of the last copy, the end of a block and the short matches (43_unpack_engine.md R227, R231,
R233, R235). -/

namespace Sys2Proof.Machine

variable {s : State}

theorem replOp_none (h : s.last.len = 0) : replOp s = .ok () s := by
  simp only [replOp, op_run_bind, op_run_get, op_run_ite, if_pos h, op_run_pure]

theorem replOp_some (h : s.last.len ≠ 0) : replOp s = winCopy s.last.len s.last.dist s := by
  simp only [replOp, op_run_bind, op_run_get, op_run_ite, if_neg h]

/-- EOB with bit 1: a new block header follows, and the progress is reported (R235). -/
theorem eobOp_newBlock (hr : s.canRead 1 = true) (h : s.peekVal 1 = 1) :
    eobOp s = .ok () { s.skipBit with
      ue := .readingTables, hdr := .start, host := { s.host with progress := s.swb.wptr } } := by
  rw [eobOp, op_bind_ok (bcRead_ok hr), if_pos h]
  rfl

/-- EOB with bit 0 ends the file: a second bit is read, nothing is there to drain, and the output is not complete (R235). -/
theorem eobOp_incomplete (hr : s.canRead 1 = true) (h : s.peekVal 1 = 0) (hr' : s.skipBit.canRead 1 = true)
    (hp : s.pend = []) (hne : s.swb.wptr ≠ s.host.unpackedSize) :
    eobOp s = .error (.raise .corruptStream) s.skipBit.skipBit := by
  have hdrain : drain s.skipBit.skipBit = .ok () s.skipBit.skipBit := drain_nil hp
  rw [eobOp, op_bind_ok (bcRead_ok hr), if_neg (by omega)]
  refine (op_bind_ok (bcRead_ok hr')).trans ((op_bind_ok hdrain).trans ((op_bind_ok (op_run_get _)).trans ?_))
  rw [op_run_ite]
  exact if_neg hne

/-- A short match with its field read ends in its copy of length 2, the ring and the last match written before it (R233). -/
theorem shortOp_run {j : Nat} (hr : s.canRead (sdbits j) = true) :
    let dist := BitVec.ofNat 32 (sdbase j + 1 + s.peekVal (sdbits j))
    shortOp j s = winCopy 2 dist
      { s.seek (s.pos + sdbits j) with ring := insertRing s.ring dist, last := ⟨2, dist⟩ } := by
  rw [shortOp, op_bind_ok (bcRead_ok hr)]
  rfl

theorem exec_of_shortRows {j : Nat} {i : Instr} (h : shortRows[j]? = some i) (s : State) :
    exec i s = runOp (shortOp j) s := by
  obtain ⟨hj, rfl⟩ := List.getElem?_eq_some_iff.mp h
  exact exec_shortRow ⟨j, hj⟩ s

end Sys2Proof.Machine

open Sys2Proof Sys2Proof.Machine

/-- Settles O37: each symbol by the equation of its operation; the tables by their eight entries. -/
theorem litReplEobShortResults : Obligations.LitReplEobShortResults := by
  unfold Obligations.LitReplEobShortResults
  refine ⟨fun b s => ?_, fun j i s hi hr => ?_, rfl, rfl, by decide, rfl, by decide, rfl, rfl⟩
  · intro s1 s2
    refine ⟨fun hne => ?_, fun hlen => ?_, fun hlen hcopy => ?_, fun hr hbit => ?_, fun hr hbit hr' hp hne => ?_⟩
    · exact runOp_ok ((winPut_run b s).trans (if_neg hne))
    · exact runOp_ok (replOp_none hlen)
    · exact runOp_ok ((replOp_some hlen).trans (winCopy_ok hcopy))
    · exact runOp_ok (eobOp_newBlock hr hbit)
    · exact runOp_raise (eobOp_incomplete hr hbit hr' hp hne)
  · intro dist t
    have hexec := exec_of_shortRows hi s
    have hrun : shortOp j s = winCopy 2 dist t := shortOp_run hr
    exact ⟨fun hcopy => hexec.trans (runOp_ok (hrun.trans (winCopy_ok hcopy))),
      fun hcopy => hexec.trans (runOp_raise (hrun.trans (winCopy_raise hcopy)))⟩
end

section
/-! What the fields of a filter record give where their bit of the control byte is clear (43_unpack_engine.md R246 to
R255). -/

namespace Sys2Proof.Machine

variable {s : State} {fb : Byte} {bits rest : List Bool} {entry : Option RegEntry} {r : ParsedRecord}

/-! ### Absent fields -/

/-- A field that is read only where its bit is set: without the bit it has its default. -/
theorem rb_absent {α : Type} {c : Bool} {m : Rb α} {a b : α} (hc : c = false)
    (h : (if c = true then m else pure a) bits = some (b, rest)) : b = a := by
  rw [hc, if_neg Bool.false_ne_true] at h
  exact congrArg Prod.fst (rb_pure_eq_some h)

theorem parseIndex_absent {last count idx : Nat} (hf : fIndex fb = false)
    (h : parseIndex fb last count bits = some (idx, rest)) : idx = last := rb_absent hf h

theorem parseLength_absent_old {e : RegEntry} {len : Word} (hf : fLength fb = false)
    (h : parseLength fb (some e) bits = some (len, rest)) : len = e.lastBlockLength := rb_absent hf h

theorem parseLength_absent_new {len : Word} (hf : fLength fb = false)
    (h : parseLength fb none bits = some (len, rest)) : len = 0 := rb_absent hf h

theorem parseInitRegs_absent {len ec : Word} {regs : Vector Word 7} (hf : fRegs fb = false)
    (h : parseInitRegs fb len ec bits = some (regs, rest)) : regs = defaultRegs len ec := rb_absent hf h

theorem parseUserData_absent {ud : List Byte} (hf : fData fb = false)
    (h : parseUserData fb bits = some (ud, rest)) : ud = [] := rb_absent hf h

/-! ### The record -/

/-- What the fields of a record that parses are, by the bits of its control byte and the entry it refers to. -/
structure ParsedRecord.Fields (s : State) (fb : Byte) (r : ParsedRecord) : Prop where
  index : fIndex fb = false → r.inst.prog = s.lastFilter.toNat
  room : r.inst.prog = s.registry.length → s.registry.length ≠ s.cfg.filtMax
  countOld : ∀ e, s.registry[r.inst.prog]? = some e → r.inst.execCount = e.execCount + 1
  countNew : s.registry[r.inst.prog]? = none → r.inst.execCount = 0
  start : s.swb.wptr.toNat + (if fAdd258 fb then 258 else 0) ≤ r.inst.blockStart.toNat
  lengthOld : fLength fb = false → ∀ e, s.registry[r.inst.prog]? = some e → r.inst.blockLength = e.lastBlockLength
  lengthNew : fLength fb = false → s.registry[r.inst.prog]? = none → r.inst.blockLength = 0
  regs : fRegs fb = false → r.inst.initR = defaultRegs r.inst.blockLength r.inst.execCount
  data : fData fb = false → r.inst.userData = []

theorem parseRecord_fields (h : parseRecord s fb bits = some (r, rest)) : r.Fields s fb := by
  unfold parseRecord at h
  obtain ⟨idx, _, hidx, h⟩ := rb_bind_eq_some h
  obtain ⟨_, _, -, h⟩ := rb_bind_eq_some h
  obtain ⟨_, _, hroom, h⟩ := rb_bind_eq_some h
  obtain ⟨off, _, -, h⟩ := rb_bind_eq_some h
  obtain ⟨blockLength, _, hlength, h⟩ := rb_bind_eq_some h
  obtain ⟨_, _, -, h⟩ := rb_bind_eq_some h
  obtain ⟨_, _, hrange, h⟩ := rb_bind_eq_some h
  obtain ⟨initR, _, hregs, h⟩ := rb_bind_eq_some h
  obtain ⟨q, _, -, h⟩ := rb_bind_eq_some h
  obtain ⟨ud, _, hud, h⟩ := rb_bind_eq_some h
  cases rb_pure_eq_some h
  have hroom : idx ≠ s.registry.length ∨ s.registry.length ≠ s.cfg.filtMax := by
    simpa using (rbCheck_eq_some hroom).1
  have hrange := of_decide_eq_true (rbCheck_eq_some hrange).1
  exact {
    index := fun hf => parseIndex_absent hf hidx
    room := fun hnew => hroom.resolve_left (not_not_intro hnew)
    countOld := fun e he => by simp only [he]
    countNew := fun he => by simp only [he]
    start := by
      have hsize := s.host.unpackedSize.isLt
      dsimp only
      rw [BitVec.toNat_ofNat, Nat.mod_eq_of_lt (by omega)]
      omega
    lengthOld := fun hf e he => parseLength_absent_old hf (he ▸ hlength)
    lengthNew := fun hf he => parseLength_absent_new hf (he ▸ hlength)
    regs := fun hf => parseInitRegs_absent hf hregs
    data := fun hf => parseUserData_absent hf hud }

/-- A record defines a program exactly where it refers to no entry of the registry (43_unpack_engine.md R247, R255). -/
theorem ParsedRecord.Legal.program_isSome_iff (h : r.Legal s) :
    r.program.isSome = true ↔ r.inst.prog = s.registry.length := by
  obtain ⟨p, hp, -, hnew⟩ | ⟨hnone, hold⟩ := h.program
  · simp only [hp, hnew, Option.isSome_some]
  · simp only [hnone, Option.isSome_none, Bool.false_eq_true, false_iff]
    exact hold.ne

end Sys2Proof.Machine

open Sys2Proof Sys2Proof.Machine

/-- Settles O42: the checks of the parse give the bounds, and each field is its default where its bit is clear. -/
theorem parsedRecordIsLegal : Obligations.ParsedRecordIsLegal := by
  unfold Obligations.ParsedRecordIsLegal
  intro s fb bits rest r h i
  have hlegal := parseRecord_legal h
  have hfields := parseRecord_fields h
  have hnew := hlegal.program_isSome_iff
  have hnone (hp : r.program.isSome = true) : s.registry[i.prog]? = none :=
    List.getElem?_eq_none (hnew.mp hp).ge
  obtain ⟨hlength, hdata⟩ := Bool.and_eq_true_iff.mp hlegal.wf
  have hle : i.prog ≤ s.registry.length := by
    obtain ⟨-, -, -, heq⟩ | ⟨-, hlt⟩ := hlegal.program
    · exact heq.le
    · exact hlt.le
  exact ⟨hle, hnew, fun hp => ⟨hfields.room (hnew.mp hp), hfields.countNew (hnone hp)⟩, hfields.countOld,
    hfields.index, hfields.start, hlegal.range, of_decide_eq_true hlength, hfields.lengthOld,
    fun hf hp => hfields.lengthNew hf (hnone hp), hfields.regs, of_decide_eq_true hdata, hfields.data⟩
end

section
/-! Writes to a destination: what `OpWrite` sets, and the commands given an immediate (44_fvm_program.md R297, R298). -/

namespace Sys2Proof.Machine

variable {f g : Fvm} {s : State} {i : Instr} {m : FvmOp Unit} {bm : Bool} {d ea v : Word} {op a b : Operand}

/-! ### The write -/

/-- A byte in memory is the low byte of the value (44_fvm_program.md R297). -/
theorem memWriteW_eq (m : Memory) : memWriteW m bm ea v =
    if bm then memWrite8 m ea ((v &&& 0xFF).setWidth 8) else memWrite32 m ea v := by
  have hbyte : (v &&& 0xFF).setWidth 8 = v.setWidth 8 := by
    rw [BitVec.setWidth_and]
    exact BitVec.and_allOnes
  rw [hbyte, memWriteW]

theorem isImmForm_of_isMemForm (h : isMemForm op = true) : isImmForm op = false := by
  cases op with
  | reg _ | imm _ => cases h
  | regmem0 _ | regmemB _ _ | absmem _ => rfl

theorem Fvm.store_of_isMemForm (h : isMemForm op = true) : f.store op bm ea v = f.setMem (memWriteW f.mem bm ea v) := by
  cases op with
  | reg _ | imm _ => cases h
  | regmem0 _ | regmemB _ _ | absmem _ => rfl

/-! ### Commands with an immediate destination -/

@[simp] theorem Fvm.ea_imm : f.ea (.imm d) = 0 := rfl

@[simp] theorem opWrite_immForm : opWrite (.imm d) bm ea v f = .error .corruptStream f := opWrite_imm rfl

/-- The common form of MOV, MOVZX and MOVSX stops before anything has changed. -/
theorem move_imm {rd wr : Bool} {r : Word → Word} : (do
    let a1 ← eaOf (.imm d)
    let a2 ← eaOf b
    let w ← opRead b rd a2
    opWrite (.imm d) wr a1 (r w)
    advanceIp : FvmOp Unit) f = .error .corruptStream f := by
  simp [fvm_run_bind]

/-- The common form of INC and DEC: the write precedes the flags (46_fvm_arith.md R343, R344). -/
theorem incDec_imm {r flags : Word → Word} : (do
    let a1 ← eaOf (.imm d)
    let v1 ← opRead (.imm d) bm a1
    opWrite (.imm d) bm a1 (r v1)
    putFlags (flags v1)
    advanceIp : FvmOp Unit) f = .error .corruptStream f := by
  simp [fvm_run_bind]

/-- NEG has set its flags when it stops (46_fvm_arith.md R345). -/
theorem opNeg_imm : opNeg bm (.imm d) f =
    .error .corruptStream (f.setFlags (flagsNeg (f.opVal (.imm d) bm (f.ea (.imm d))))) := by
  simp [opNeg, fvm_run_bind]

theorem opBnot_imm : opBnot bm (.imm d) f = .error .corruptStream f := by
  simp [opBnot, fvm_run_bind]

theorem opMul_imm : opMul bm (.imm d) b f = .error .corruptStream f := by
  simp [opMul, fvm_run_bind]

theorem opDiv_zero (h : f.opVal b bm (f.ea b) = 0) : opDiv bm a b f = .ok () f.advance := by
  simp [opDiv, fvm_run_bind, h]

theorem opDiv_imm (h : f.opVal b bm (f.ea b) ≠ 0) : opDiv bm (.imm d) b f = .error .corruptStream f := by
  simp only [opDiv, fvm_run_bind, eaOf_run, opRead_run, fvm_run_ite, if_neg h, opWrite_immForm]

theorem opPop_imm : opPop (.imm d) f = .error .corruptStream f := by
  simp [opPop, fvm_run_bind]

theorem opXchg_imm_left : opXchg bm (.imm d) b f = .error .corruptStream f := by
  simp [opXchg, fvm_run_bind]

/-- XCHG has written its first operand when the write of the second stops it (45_fvm_data.md R323). -/
theorem opXchg_imm_right (h : isImmForm a = false) :
    opXchg bm a (.imm d) f = .error .corruptStream (f.store a bm (f.ea a) (f.opVal (.imm d) bm 0)) := by
  simp [opXchg, fvm_run_bind, opWrite_ok h]

/-- A command with one destination stops at the write of an immediate: at most `FLAGS` have changed by then. A DIV gets to
its write where the divisor is not 0. -/
theorem command_immDest (nc : NativeChoice) (h : destOf i = some (bm, .imm d))
    (hdiv : ∀ w c, i = .div w (.imm d) c → f.opVal c w (f.ea c) ≠ 0) :
    ∃ m v, commandOp nc i = some m ∧ m f = .error .corruptStream (f.setFlags v) := by
  cases i <;> cases h
  case mov | movzx | movsx => exact ⟨_, f.flags, rfl, move_imm⟩
  case add | sub | bxor | band | bor | shl | shr | sar | adc | sbb => exact ⟨_, _, rfl, aluOp_imm rfl⟩
  case inc | dec => exact ⟨_, f.flags, rfl, incDec_imm⟩
  case neg => exact ⟨_, _, rfl, opNeg_imm⟩
  case bnot => exact ⟨_, f.flags, rfl, opBnot_imm⟩
  case mul => exact ⟨_, f.flags, rfl, opMul_imm⟩
  case div => exact ⟨_, f.flags, rfl, opDiv_imm (hdiv _ _ rfl)⟩

/-- A command whose operation raises CorruptStream ends the session with code 3 (60_exceptions.md R411, R415). -/
theorem exec_command_corrupt (hi : commandOp s.cfg.native i = some m) (hm : m s.fvm = .error .corruptStream g) :
    ∃ t, exec i s = .next t ∧ t.ue = .failed ∧ t.host.status = .error ∧ t.host.errKind = 3 ∧ t.fvm = g :=
  ⟨_, (exec_command hi).trans (runFvm_raise hm), rfl, rfl, rfl, rfl⟩

/-! ### Commands that only read their operand -/

/-- The command answers a next state that differs in the FVM alone. -/
def State.Completes (s : State) (i : Instr) : Prop := ∃ f, exec i s = .next { s with fvm := f }

theorem completes_of_ok (hi : commandOp s.cfg.native i = some m) (hm : m s.fvm = .ok () g) : s.Completes i :=
  ⟨g, (exec_command hi).trans (runFvm_ok hm)⟩

theorem jump_completes (h : jumpOperand i = some a) (s : State) : s.Completes i := by
  cases i <;> cases h <;> exact completes_of_ok rfl jumpIf_ok

end Sys2Proof.Machine

open Sys2Proof Sys2Proof.Machine

/-- Settles O4: by the form of the operand. -/
theorem operandWriteSetsItsTarget : Obligations.OperandWriteSetsItsTarget := by
  unfold Obligations.OperandWriteSetsItsTarget
  intro f bm op ea v
  refine ⟨?_, fun hmem => ?_, ?_⟩
  · rintro r rfl
    exact opWrite_ok rfl
  · rw [opWrite_ok (isImmForm_of_isMemForm hmem), Fvm.store_of_isMemForm hmem, memWriteW_eq]
  · rintro d rfl
    exact opWrite_imm rfl

/-- Settles O13: the commands with a destination stop at its write, the readers have no write to stop at. -/
theorem immediateDestinationRaises : Obligations.ImmediateDestinationRaises := by
  unfold Obligations.ImmediateDestinationRaises
  intro s d raises
  refine ⟨fun i bm hdest hdiv => ?_, exec_command_corrupt rfl opPop_imm,
    fun bm op2 => exec_command_corrupt rfl opXchg_imm_left,
    fun bm op1 hop1 => exec_command_corrupt rfl (opXchg_imm_right hop1), fun bm op2 => ?_,
    fun bm op2 hzero => (exec_command rfl).trans (runFvm_ok (opDiv_zero hzero))⟩
  · obtain ⟨m, v, hi, hm⟩ := command_immDest s.cfg.native hdest hdiv
    obtain ⟨t, ht, hue, hstatus, hkind, hfvm⟩ := exec_command_corrupt hi hm
    exact ⟨t, ht, hue, hstatus, hkind, by rw [hfvm, Fvm.setFlags_regs], by rw [hfvm, Fvm.setFlags_mem]⟩
  · have hcmp : s.Completes (.cmp bm (.imm d) op2) := completes_of_ok rfl compareOp_ok
    have htest : s.Completes (.test bm (.imm d) op2) := completes_of_ok rfl compareOp_ok
    have hpush : s.Completes (.push (.imm d)) := completes_of_ok rfl rfl
    have hcall : s.Completes (.call (.imm d)) := completes_of_ok rfl rfl
    have hjump (j : Instr) (hj : jumpOperand j = some (.imm d)) : s.Completes j := jump_completes hj s
    simp only [List.forall_mem_cons]
    exact ⟨hcmp, htest, hpush, hjump _ rfl, hjump _ rfl, hjump _ rfl, hjump _ rfl, hjump _ rfl, hjump _ rfl, hjump _ rfl,
      hjump _ rfl, hjump _ rfl, hcall, List.forall_mem_nil _⟩
end

section
/-! FVM.COMPILE and FVM.EXEC as rows, and the bound of an execution (44_fvm_program.md R280, R287 to R292). -/

namespace Sys2Proof.Machine

variable {s u : State} {p : FilterProgram} {i : FilterInstance} {c : Instr} {code d : List Byte}

/-! ### The rows -/

theorem compileOp_ok (h : compileBlob s.cfg.signatures code = some p) : compileOp code s = .ok (.program p) s := by
  rw [compileOp, op_bind_ok (op_run_get s), h]
  rfl

theorem compileOp_raise (h : compileBlob s.cfg.signatures code = none) :
    compileOp code s = .error (.raise .corruptStream) s := by
  rw [compileOp, op_bind_ok (op_run_get s), h]
  rfl

/-- An execution is its load, its run, and where that ends the result (44_fvm_program.md R287 to R292). -/
theorem fvmExec_run (p : FilterProgram) (i : FilterInstance) (d : List Byte) (s : State) :
    fvmExec p i d s = (do
      fvmRun p s.cfg.fvmMaxOps
      let t ← get
      pure (extractResult t.fvm.mem) : Op (List Byte)) { s with fvm := loadFvm p i d } := rfl

theorem fvmExec_ok (h : fvmRun p s.cfg.fvmMaxOps { s with fvm := loadFvm p i d } = .ok () u) :
    fvmExec p i d s = .ok (extractResult u.fvm.mem) u :=
  (fvmExec_run p i d s).trans (op_bind_ok h)

theorem fvmExec_raise {k : ErrKind}
    (h : fvmRun p s.cfg.fvmMaxOps { s with fvm := loadFvm p i d } = .error (.raise k) u) :
    fvmExec p i d s = .error (.raise k) u :=
  (fvmExec_run p i d s).trans (op_bind_error h)

/-! ### The bound -/

/-- The three ways a run can go: an end with at most `n` commands counted, the overrun with `n` counted and a command at
`ip`, or CorruptStream. -/
inductive RunOutcome (p : FilterProgram) (n : Nat) : EStateM.Result Stop State Unit → Prop where
  | ends {t : State} (hops : t.fvm.ops ≤ n) (hend : t.AtEnd p) : RunOutcome p n (.ok () t)
  | overruns {t : State} (hops : t.fvm.ops = n) (hip : t.fvm.ip.toNat < p.cmds.length) :
      RunOutcome p n (.error (.raise .filterOverrun) t)
  | corrupt {t : State} : RunOutcome p n (.error (.raise .corruptStream) t)

theorem exists_commandOp_of_fetch (nc : NativeChoice) (hcmds : p.cmds.all Instr.isCommand = true) {a : Nat}
    (h : p.cmds[a]? = some c) : ∃ m, commandOp nc c = some m :=
  Option.isSome_iff_exists.mp
    ((commandOp_isSome nc c).trans (List.all_eq_true.mp hcmds c (List.mem_of_getElem? h)))

/-- The run loop with the fuel `k` that the count leaves below `n`: each round moves one from the fuel to the count. -/
theorem fvmRun_outcome {n k : Nat} (hcmds : p.cmds.all Instr.isCommand = true) (hops : s.fvm.ops + k = n) :
    RunOutcome p n (fvmRun p k s) := by
  induction k generalizing s with
  | zero =>
    cases hip : p.cmds[s.fvm.ip.toNat]? with
    | none =>
      rw [fvmRun_end 0 hip]
      exact .ends hops.le (.inr hip)
    | some c =>
      rw [fvmRun_zero hip]
      exact .overruns hops (List.getElem?_eq_some_iff.mp hip).1
  | succ k ih =>
    cases hip : p.cmds[s.fvm.ip.toNat]? with
    | none =>
      rw [fvmRun_end _ hip]
      exact .ends (by omega) (.inr hip)
    | some c =>
      obtain ⟨m, hm⟩ := exists_commandOp_of_fetch s.cfg.native hcmds hip
      rw [fvmRun_succ k hip hm]
      cases hf : m s.fvm.countOp with
      | error e f =>
        obtain rfl := command_raisesCorrupt hm _ _ _ hf
        exact .corrupt
      | ok a f =>
        have hcount : f.ops = s.fvm.ops + 1 := fvmAfter_ok hf ▸ command_ops hm s.fvm.countOp
        by_cases he : f.ended = true
        · simp only [if_pos he]
          exact .ends (by change f.ops ≤ n; omega) (.inl he)
        · simp only [if_neg he]
          exact ih (by change f.ops + k = n; omega)

end Sys2Proof.Machine

open Sys2Proof Sys2Proof.Machine

/-- Settles O45: each row is its operation, and the result goes to the port. -/
theorem compileAndExecRows : Obligations.CompileAndExecRows := by
  unfold Obligations.CompileAndExecRows
  intro code i d e s
  refine ⟨fun p hp => ?_, fun hnone => ?_, fun he u hrun => ?_, fun he k u hrun => ?_⟩
  · exact runOp_ok (op_bind_ok (compileOp_ok hp))
  · exact runOp_raise (op_bind_error (compileOp_raise hnone))
  · exact runOp_ok (op_bind_ok ((op_bind_ok (lookupProgram_ok he)).trans (op_bind_ok (fvmExec_ok hrun))))
  · exact runOp_raise (op_bind_error ((op_bind_ok (lookupProgram_ok he)).trans (op_bind_error (fvmExec_raise hrun))))

/-- Settles O59: the count of the loaded FVM is 0, so the fuel is the whole ceiling. -/
theorem executionIsBounded : Obligations.ExecutionIsBounded := by
  unfold Obligations.ExecutionIsBounded
  intro p i d s hcmds
  have hrun : RunOutcome p s.cfg.fvmMaxOps (fvmRun p s.cfg.fvmMaxOps { s with fvm := loadFvm p i d }) :=
    fvmRun_outcome hcmds (Nat.zero_add _)
  generalize fvmRun p s.cfg.fvmMaxOps { s with fvm := loadFvm p i d } = r at hrun ⊢
  cases hrun with
  | ends hops hend => exact .inl ⟨_, rfl, hops, hend.imp_right List.getElem?_eq_none_iff.mp⟩
  | overruns hops hip => exact .inr (.inl ⟨_, rfl, hops, hip⟩)
  | corrupt => exact .inr (.inr ⟨_, rfl⟩)
end

section
/-! The FVM data commands and the frames of the commands that write one place (45_fvm_data.md): each operation's FVM as an
equation, then what the stores leave of the registers and of `Mem`. -/

namespace Sys2Proof.Machine

variable {f g : Fvm} {s t : State} {i : Instr} {m : FvmOp Unit} {mem : Memory} {bm : Bool} {a b op : Operand}
  {ea v : Word} {x : Nat}

/-! ### What each operation leaves -/

/-- The common form of MOV, MOVZX and MOVSX, on a destination that can be written (45_fvm_data.md R320 to R322). -/
theorem move_ok {rd wr : Bool} {r : Word → Word} (h : isImmForm a = false) : (do
    let a1 ← eaOf a
    let a2 ← eaOf b
    let w ← opRead b rd a2
    opWrite a wr a1 (r w)
    advanceIp : FvmOp Unit) f = .ok () (f.store a wr (f.ea a) (r (f.opVal b rd (f.ea b)))).advance := by
  simp [fvm_run_bind, opWrite_ok h]

/-- XCHG reads both values before it writes (45_fvm_data.md R323). -/
theorem opXchg_ok (ha : isImmForm a = false) (hb : isImmForm b = false) : opXchg bm a b f = .ok ()
    ((f.store a bm (f.ea a) (f.opVal b bm (f.ea b))).store b bm (f.ea b) (f.opVal a bm (f.ea a))).advance := by
  simp [opXchg, fvm_run_bind, opWrite_ok ha, opWrite_ok hb]

/-- What a push of `w` leaves, its `ip` aside. -/
def Fvm.pushed (f : Fvm) (w : Word) : Fvm :=
  (f.setReg 7 (f.reg 7 - 4)).setMem (memWrite32 f.mem (f.reg 7 - 4) w)

theorem opPush_run (a : Operand) (f : Fvm) : opPush a f =
    .ok () (f.pushed ((f.setReg 7 (f.reg 7 - 4)).opVal a false (f.ea a))).advance := by
  simp [opPush, fvm_run_bind, Fvm.pushed]

theorem opPushf_run (f : Fvm) : opPushf f = .ok () (f.pushed f.flags).advance := by
  simp [opPushf, fvm_run_bind, Fvm.pushed]

/-- CALL reads its target after the push (47_fvm_control.md R380). -/
theorem opCall_run (a : Operand) (f : Fvm) : opCall a f =
    .ok () ((f.pushed (f.ip + 1)).setIp ((f.pushed (f.ip + 1)).opVal a false (f.ea a))) := by
  simp [opCall, fvm_run_bind, Fvm.pushed]

/-- POP adds 4 to the `R[7]` that its write left (45_fvm_data.md R325). -/
theorem opPop_ok (h : isImmForm a = false) : opPop a f = .ok ()
    ((f.store a false (f.ea a) (memRead32 f.mem (f.reg 7))).setReg 7
      ((f.store a false (f.ea a) (memRead32 f.mem (f.reg 7))).reg 7 + 4)).advance := by
  simp [opPop, fvm_run_bind, opWrite_ok h]

theorem opPopf_run (f : Fvm) : opPopf f =
    .ok () ((f.setFlags (memRead32 f.mem (f.reg 7))).setReg 7 (f.reg 7 + 4)).advance := by
  simp [opPopf, fvm_run_bind]

theorem opPusha_run (f : Fvm) : opPusha f =
    .ok () ((f.setMem (pushaMem f (f.reg 7) f.mem)).setReg 7 (f.reg 7 - 32)).advance := by
  simp [opPusha, fvm_run_bind]

theorem opPopa_run (f : Fvm) : opPopa f = .ok () { f with regs := popaRegs f.mem (f.reg 7) }.advance := by
  simp [opPopa, fvm_run_bind]

/-- A register that POPA loads (45_fvm_data.md R327). -/
theorem get_popaRegs (mem : Memory) (sp : Word) (r : Fin 8) :
    (popaRegs mem sp).get r = memRead32 mem (sp + 4 * BitVec.ofNat 32 (7 - r.val)) := by
  rw [popaRegs, Vector.get_eq_getElem, Vector.getElem_ofFn]

/-- A command that completes: its next state holds the FVM its operation leaves. -/
theorem exec_command_ok (hi : commandOp s.cfg.native i = some m) (hm : m s.fvm = .ok () g) :
    exec i s = .next { s with fvm := g } := (exec_command hi).trans (runFvm_ok hm)

theorem eq_of_exec_command_ok (hi : commandOp s.cfg.native i = some m) (hm : m s.fvm = .ok () g)
    (ht : exec i s = .next t) : t = { s with fvm := g } :=
  (Host.Outcome.next.inj ((exec_command_ok hi hm).symm.trans ht)).symm

end Sys2Proof.Machine

open Sys2Proof Sys2Proof.Machine

/-- Settles O5: the moves by their common form, XCHG by its two writes. -/
theorem moveAndExchangeResults : Obligations.MoveAndExchangeResults := by
  unfold Obligations.MoveAndExchangeResults
  refine ⟨fun bm op1 op2 s h => ⟨?_, ?_, ?_⟩, fun bm op1 op2 s h1 h2 => ?_⟩
  · exact exec_command_ok (m := opMov bm op1 op2) rfl (move_ok (r := id) h)
  · exact exec_command_ok (m := opMovzx op1 op2) rfl (move_ok (r := id) h)
  · exact exec_command_ok rfl (move_ok (r := fun w => (w.setWidth 8).signExtend 32) h)
  · exact exec_command_ok rfl (opXchg_ok h1 h2)

/-- Settles O6: each row by the equation of its operation, PUSHA's memory by `pushaMem_eq`. -/
theorem stackResults : Obligations.StackResults := by
  unfold Obligations.StackResults
  refine ⟨fun op1 s => ⟨?_, fun h => ?_, ?_, ?_⟩, fun s =>
    ⟨?_, _, exec_command_ok rfl (opPopa_run s.fvm), fun i => ?_, rfl, rfl, rfl, rfl, rfl⟩⟩
  · exact exec_command_ok rfl (opPush_run op1 s.fvm)
  · exact exec_command_ok rfl (opPop_ok h)
  · exact exec_command_ok rfl (opPushf_run s.fvm)
  · exact exec_command_ok rfl (opPopf_run s.fvm)
  · rw [exec_command_ok rfl (opPusha_run s.fvm), pushaMem_eq]
  · have hi : 7 - (7 - i).val = i.val := by revert i; decide
    exact (get_popaRegs ..).trans (by rw [hi])
end

section
/-! Frames of the commands that write one destination and of those that push: the registers and the bytes of `Mem` outside
what is stored are as before. -/

namespace Sys2Proof.Machine

variable {f g : Fvm} {s t : State} {i : Instr} {m : FvmOp Unit} {mem : Memory} {bm : Bool} {a b op : Operand}
  {ea v w : Word} {x : Nat}

/-! ### What a write leaves -/

theorem memWrite32_read_untouched (h : mem.wf = true) (hx : x ∉ touched false ea) :
    (memWrite32 mem ea v).read x = mem.read x := by
  simp only [touched, Bool.false_eq_true, if_false, List.mem_cons, List.not_mem_nil, not_or] at hx
  obtain ⟨h0, h1, h2, h3, -⟩ := hx
  exact memWrite32_read_other h ea v x ⟨h0, h1, h2, h3⟩

theorem memWriteW_read_untouched (h : mem.wf = true) (hx : x ∉ touched bm ea) :
    (memWriteW mem bm ea v).read x = mem.read x := by
  cases bm with
  | true => exact (Memory.read_write h _ _ x).trans (if_neg (List.ne_of_not_mem_cons hx))
  | false => exact memWrite32_read_untouched h hx

/-- A memory destination changes its touched bytes alone, every other destination no byte (44_fvm_program.md R297). -/
theorem Fvm.store_mem_read (h : f.mem.wf = true) (hx : isMemForm op = true → x ∉ touched bm ea) :
    (f.store op bm ea v).mem.read x = f.mem.read x := by
  rw [Fvm.store_mem]
  split
  · exact memWriteW_read_untouched h (hx ‹_›)
  · rfl

/-- A byte write to a register keeps bits 31 to 8 (44_fvm_program.md R297). -/
theorem regMerge_upper (old v : Word) : regMerge true old v &&& 0xFFFFFF00 = old &&& 0xFFFFFF00 := by
  have hlow : (0xFF : Word) &&& 0xFFFFFF00 = 0#32 := by decide
  rw [regMerge, if_pos rfl, BitVec.and_or_distrib_right, BitVec.and_assoc, BitVec.and_assoc, hlow, BitVec.and_self,
    BitVec.and_zero, BitVec.or_zero]

/-! ### The commands with one destination -/

/-- INC and DEC: that the write precedes the flags does not show, a destination is no flag (46_fvm_arith.md R343, R344). -/
theorem incDec_ok {r flags : Word → Word} (h : isImmForm a = false) : (do
    let a1 ← eaOf a
    let v1 ← opRead a bm a1
    opWrite a bm a1 (r v1)
    putFlags (flags v1)
    advanceIp : FvmOp Unit) f = .ok () ((f.setFlags (flags (f.opVal a bm (f.ea a)))).store a bm (f.ea a)
      (r (f.opVal a bm (f.ea a)))).advance := by
  have hcomm (w v : Word) : (f.store a bm (f.ea a) v).setFlags w = (f.setFlags w).store a bm (f.ea a) v := by
    cases a <;> rfl
  simp [fvm_run_bind, opWrite_ok h, hcomm]

theorem opNeg_ok (h : isImmForm a = false) : opNeg bm a f = .ok () ((f.setFlags (flagsNeg (f.opVal a bm (f.ea a)))).store a
    bm (f.ea a) (0 - f.opVal a bm (f.ea a))).advance := by
  simp [opNeg, fvm_run_bind, opWrite_ok h]

theorem opBnot_ok (h : isImmForm a = false) :
    opBnot bm a f = .ok () (f.store a bm (f.ea a) (~~~f.opVal a bm (f.ea a))).advance := by
  simp [opBnot, fvm_run_bind, opWrite_ok h]

theorem opMul_ok (h : isImmForm a = false) : opMul bm a b f =
    .ok () (f.store a bm (f.ea a) (f.opVal a bm (f.ea a) * f.opVal b bm (f.ea b))).advance := by
  simp [opMul, fvm_run_bind, opWrite_ok h]

theorem opDiv_ok (h : isImmForm a = false) (hv : f.opVal b bm (f.ea b) ≠ 0) : opDiv bm a b f =
    .ok () (f.store a bm (f.ea a) (f.opVal a bm (f.ea a) / f.opVal b bm (f.ea b))).advance := by
  simp only [opDiv, fvm_run_bind, eaOf_run, opRead_run, fvm_run_ite, if_neg hv, opWrite_ok h, advanceIp_run]

/-- A command with one destination does nothing but advance (a DIV by 0), or sets `FLAGS`, it may be to what they
were, and stores to its destination. -/
theorem command_dest_ok (nc : NativeChoice) (f : Fvm) (h : destOf i = some (bm, op)) (hop : isImmForm op = false) :
    ∃ m g, commandOp nc i = some m ∧ m f = .ok () g.advance ∧
      (g = f ∨ ∃ w v, g = (f.setFlags w).store op bm (f.ea op) v) := by
  cases i <;> cases h
  case mov | movzx => exact ⟨_, _, rfl, move_ok (r := id) hop, .inr ⟨f.flags, _, rfl⟩⟩
  case movsx => exact ⟨_, _, rfl, move_ok (r := fun w => (w.setWidth 8).signExtend 32) hop, .inr ⟨f.flags, _, rfl⟩⟩
  case add | sub | bxor | band | bor | shl | shr | sar | adc | sbb =>
    exact ⟨_, _, rfl, aluOp_ok hop, .inr ⟨_, _, rfl⟩⟩
  case inc =>
    exact ⟨_, _, rfl, incDec_ok (r := incResult bm) (flags := fun v => flagsZS (incResult bm v)) hop, .inr ⟨_, _, rfl⟩⟩
  case dec => exact ⟨_, _, rfl, incDec_ok (r := (· - 1)) (flags := fun v => flagsZS (v - 1)) hop, .inr ⟨_, _, rfl⟩⟩
  case neg => exact ⟨_, _, rfl, opNeg_ok hop, .inr ⟨_, _, rfl⟩⟩
  case bnot => exact ⟨_, _, rfl, opBnot_ok hop, .inr ⟨f.flags, _, rfl⟩⟩
  case mul => exact ⟨_, _, rfl, opMul_ok hop, .inr ⟨f.flags, _, rfl⟩⟩
  case div b =>
    by_cases hv : f.opVal b bm (f.ea b) = 0
    · exact ⟨_, _, rfl, opDiv_zero hv, .inl rfl⟩
    · exact ⟨_, _, rfl, opDiv_ok hop hv, .inr ⟨f.flags, _, rfl⟩⟩

/-! ### The commands that push -/

theorem Fvm.pushed_reg_other {r : Fin 8} (h : r ≠ 7) : (f.pushed w).reg r = f.reg r := by
  rw [Fvm.pushed, Fvm.setMem_reg, Fvm.reg_setReg, if_neg h]

theorem Fvm.pushed_reg_seven : (f.pushed w).reg 7 = f.reg 7 - 4 := by
  rw [Fvm.pushed, Fvm.setMem_reg, Fvm.setReg_reg_self]

/-- PUSH, PUSHF and CALL push a word and set `ip`, all but CALL to the next command. -/
theorem command_push_ok (nc : NativeChoice) (f : Fvm) (h : i = .push a ∨ i = .pushf ∨ i = .call a) :
    ∃ m w p, commandOp nc i = some m ∧ m f = .ok () ((f.pushed w).setIp p) ∧ (i ≠ .call a → p = f.ip + 1) := by
  obtain rfl | rfl | rfl := h
  · exact ⟨_, _, _, rfl, opPush_run a f, fun _ => rfl⟩
  · exact ⟨_, _, _, rfl, opPushf_run f, fun _ => rfl⟩
  · exact ⟨_, _, _, rfl, opCall_run a f, fun hne => absurd rfl hne⟩

end Sys2Proof.Machine

open Sys2Proof Sys2Proof.Machine

/-- Settles O16: nothing but the destination is stored to; that the commands that are no flag writers keep `FLAGS` is O11. -/
theorem singleDestinationFrame : Obligations.SingleDestinationFrame := by
  unfold Obligations.SingleDestinationFrame
  intro i bm op1 s t hdest hop hwf ht
  obtain ⟨m, g, hm, hrun, hg⟩ := command_dest_ok s.cfg.native s.fvm hdest hop
  have hflags : writesFlags i = false → t.fvm.flags = s.fvm.flags :=
    (flagsWordDiscipline i s t (by rw [← commandOp_isSome s.cfg.native, hm]; rfl) ht).2
  obtain rfl := eq_of_exec_command_ok hm hrun ht
  obtain rfl | ⟨w, v, rfl⟩ := hg
  · exact ⟨fun _ _ => rfl, fun _ _ _ => rfl, fun _ _ => rfl, rfl, rfl, rfl, hflags, rfl⟩
  · refine ⟨fun r hr => Fvm.store_reg_other hr, ?_, fun x hx => Fvm.store_mem_read hwf hx, ?_, Fvm.store_ops,
      Fvm.store_ended, hflags, rfl⟩
    · rintro r rfl rfl
      rw [Fvm.advance_reg, Fvm.store_reg_self]
      exact regMerge_upper _ v
    · rw [Fvm.advance_ip, Fvm.store_ip, Fvm.setFlags_ip]

/-- Settles O17: the three commands are a push and an `ip`. -/
theorem pushFrame : Obligations.PushFrame := by
  unfold Obligations.PushFrame
  intro i op1 s t hi hwf ht
  obtain ⟨m, w, p, hm, hrun, hip⟩ := command_push_ok s.cfg.native s.fvm hi
  obtain rfl := eq_of_exec_command_ok hm hrun ht
  exact ⟨fun r hr => Fvm.pushed_reg_other (w := w) hr, Fvm.pushed_reg_seven (w := w),
    fun x hx => memWrite32_read_untouched hwf hx, rfl, rfl, rfl, hip, rfl⟩
end

section
/-! POPA after PUSHA: the eight slots of a PUSHA are the words POPA reads, and no two of them share a byte, wherever the
stack wraps (45_fvm_data.md R326, R327; 20_memory.md R66). -/

namespace Sys2Proof.Machine

variable {f : Fvm} {mem : Memory} {a b v : Word}

theorem memRead32_memWrite32_self (h : mem.wf = true) (a v : Word) : memRead32 (memWrite32 mem a v) a = v := by
  rw [memRead32_eq, read_memWrite32_byte h a v (by decide), read_memWrite32_byte h a v (by decide),
    read_memWrite32_byte h a v (by decide), read_memWrite32_byte h a v (by decide), wordByte_append]

/-- Two words that share no byte of `Mem`. -/
def WordsApart (a b : Word) : Prop := ∀ j < 4, ∀ k < 4, (a.toNat + j) % vmMemSize ≠ (b.toNat + k) % vmMemSize

theorem memRead32_memWrite32_apart (h : mem.wf = true) (hab : WordsApart a b) :
    memRead32 (memWrite32 mem a v) b = memRead32 mem b := by
  have hbyte (k : Nat) (hk : k < 4) : (memWrite32 mem a v).read ((b.toNat + k) % vmMemSize) =
      mem.read ((b.toNat + k) % vmMemSize) := by
    rw [read_memWrite32 h, if_neg (hab 3 (by decide) k hk).symm, if_neg (hab 2 (by decide) k hk).symm,
      if_neg (hab 1 (by decide) k hk).symm, if_neg (hab 0 (by decide) k hk).symm]
  rw [memRead32_eq, hbyte 3 (by decide), hbyte 2 (by decide), hbyte 1 (by decide), hbyte 0 (by decide), ← memRead32_eq]

/-- Distances that differ by at least 4, below the size of `Mem`, lead from one base to words apart. -/
theorem wordsApart_add (a : Word) {i j : Nat} (hi : i + 4 ≤ vmMemSize) (hj : j + 4 ≤ vmMemSize)
    (hij : i + 4 ≤ j ∨ j + 4 ≤ i) : WordsApart (a + BitVec.ofNat 32 i) (a + BitVec.ofNat 32 j) := by
  have hoffset (d k : Nat) : ((a + BitVec.ofNat 32 d).toNat + k) % vmMemSize = (a.toNat + (d + k)) % vmMemSize := by
    rw [← Nat.mod_add_mod, ← Nat.add_assoc, ← Nat.mod_add_mod (a.toNat + d)]
    exact congrArg (fun n => (n + k) % vmMemSize) (memIndex_add a d)
  intro p hp q hq
  rw [hoffset, hoffset, Ne, memIndex_add_inj (by omega) (by omega)]
  omega

/-- Where PUSHA stores `R[i]`, with `sp` the `R[7]` before (45_fvm_data.md R326). -/
def pushaSlot (sp : Word) (i : Fin 8) : Word := sp - 4 - 4 * BitVec.ofNat 32 i.val

/-- POPA's address of a register, from the `R[7]` that PUSHA leaves, is the register's slot. -/
theorem pushaSlot_eq (sp : Word) (i : Fin 8) : pushaSlot sp i = sp - 32 + 4 * BitVec.ofNat 32 (7 - i.val) := by
  have hlt := i.isLt
  unfold pushaSlot
  bv_omega

theorem pushaSlot_apart (sp : Word) {i r : Fin 8} (h : i ≠ r) : WordsApart (pushaSlot sp i) (pushaSlot sp r) := by
  have hmul (n : Nat) : (4 : Word) * BitVec.ofNat 32 n = BitVec.ofNat 32 (4 * n) := (BitVec.ofNat_mul ..).symm
  have hne : i.val ≠ r.val := fun e => h (Fin.ext e)
  rw [pushaSlot_eq, pushaSlot_eq, hmul, hmul]
  have hsize (n : Nat) : 4 * (7 - n) + 4 ≤ vmMemSize := by
    rw [vmMemSize]
    omega
  exact wordsApart_add _ (hsize _) (hsize _) (by omega)

/-- A slot after the stores of the registers of a list: its register's value where the list holds it. -/
theorem memRead32_foldl_pushaSlot (h : mem.wf = true) (sp : Word) (l : List (Fin 8)) (r : Fin 8) :
    memRead32 (l.foldl (fun m i => memWrite32 m (pushaSlot sp i) (f.reg i)) mem) (pushaSlot sp r) =
      if r ∈ l then f.reg r else memRead32 mem (pushaSlot sp r) := by
  induction l generalizing mem with
  | nil => simp
  | cons i l ih =>
    rw [List.foldl_cons, ih (memWrite32_wf h _ _)]
    by_cases hir : i = r
    · subst hir
      simp [memRead32_memWrite32_self h]
    · simp [memRead32_memWrite32_apart h (pushaSlot_apart sp hir), Ne.symm hir]

/-- Each slot of a PUSHA holds its register. -/
theorem memRead32_pushaMem (h : mem.wf = true) (sp : Word) (r : Fin 8) :
    memRead32 (pushaMem f sp mem) (pushaSlot sp r) = f.reg r :=
  (memRead32_foldl_pushaSlot h sp (List.finRange 8) r).trans (if_pos (List.mem_finRange r))

/-- POPA loads from the memory that PUSHA leaves what PUSHA has stored. -/
theorem popaRegs_pushaMem (h : mem.wf = true) (sp : Word) : popaRegs (pushaMem f sp mem) (sp - 32) = f.regs := by
  refine Vector.ext fun k hk => ?_
  have hget := get_popaRegs (pushaMem f sp mem) (sp - 32) ⟨k, hk⟩
  rw [← pushaSlot_eq, memRead32_pushaMem h] at hget
  exact hget

end Sys2Proof.Machine

open Sys2Proof Sys2Proof.Machine

/-- Settles O7: POPA starts from the memory and the `R[7]` that PUSHA leaves. -/
theorem popaAfterPushaRestoresRegisters : Obligations.PopaAfterPushaRestoresRegisters := by
  unfold Obligations.PopaAfterPushaRestoresRegisters
  intro s t u hwf ht hu
  have htfvm := congrArg State.fvm (eq_of_exec_command_ok rfl (opPusha_run s.fvm) ht)
  have hufvm := congrArg State.fvm (eq_of_exec_command_ok rfl (opPopa_run t.fvm) hu)
  calc u.fvm.regs
      = popaRegs t.fvm.mem (t.fvm.reg 7) := by rw [hufvm, Fvm.advance_regs]
    _ = popaRegs (pushaMem s.fvm (s.fvm.reg 7) s.fvm.mem) (s.fvm.reg 7 - 32) := by
        rw [htfvm, Fvm.advance_reg, Fvm.setReg_reg_self, Fvm.advance_mem, Fvm.setReg_mem, Fvm.setMem_mem]
    _ = s.fvm.regs := popaRegs_pushaMem hwf (s.fvm.reg 7)
end

section
/-! The FVM arithmetic, logic and shift commands (46_fvm_arith.md): their flag words written out, and the next state of
each of their forms. -/

namespace Sys2Proof.Machine

variable {s : State} {i : Instr} {f : Fvm} {bm : Bool} {a b : Operand} {v1 v2 w r ea : Word}

/-! ### The flag words written out -/

theorem carryFlag_decide {p : Prop} [Decidable p] : carryFlag (decide p) = if p then 1 else 0 := by
  simp [carryFlag, flagC]

/-- The carry of ADC and SBB: the overflow test `p`, or a carry in that has come round to the first value (R348, R349). -/
theorem carryFlag_or_carryIn {p : Prop} [Decidable p] : carryFlag (decide p || (r == v1 && carryIn w == 1)) =
    if p ∨ (r = v1 ∧ w &&& 1 = 1) then 1 else 0 := by
  simp [carryFlag, flagC, carryIn]

theorem flagsSub_eq : flagsSub v1 v2 = if v1 - v2 = 0 then 2 else
    (if v1 < v1 - v2 then 1 else 0) ||| ((v1 - v2) &&& 0x80000000) := by
  rw [flagsSub, carryFlag_decide]
  rfl

/-- The two widths of ADD share the carry and differ in `S` (R341). -/
theorem flagsAdd_eq : flagsAdd bm v1 v2 = (if addResult bm v1 v2 < v1 then 1 else 0) |||
    (if addResult bm v1 v2 = 0 then 2
      else if bm then (if addResult bm v1 v2 &&& 0x80 = 0 then 0 else 0x80000000)
      else addResult bm v1 v2 &&& 0x80000000) := by
  rw [flagsAdd, carryFlag_decide]
  cases bm <;> rfl

theorem flagsAdc_eq : flagsAdc bm w v1 v2 =
    (if adcResult bm w v1 v2 < v1 ∨ (adcResult bm w v1 v2 = v1 ∧ w &&& 1 = 1) then 1 else 0) |||
      flagsZS (adcResult bm w v1 v2) := by
  rw [flagsAdc, carryFlag_or_carryIn]

theorem flagsSbb_eq : flagsSbb bm w v1 v2 =
    (if v1 < sbbResult bm w v1 v2 ∨ (sbbResult bm w v1 v2 = v1 ∧ w &&& 1 = 1) then 1 else 0) |||
      flagsZS (sbbResult bm w v1 v2) := by
  rw [flagsSbb, carryFlag_or_carryIn]

/-! ### The forms of the commands -/

/-- The writing form: `FLAGS` become the command's flag word `w`, then the destination its result `r`. -/
theorem exec_aluOp {result flags : Word → Word → Word → Word}
    (hi : commandOp s.cfg.native i = some (aluOp bm a b result flags)) (ha : isImmForm a = false)
    (hw : flags s.fvm.flags (s.fvm.opVal a bm (s.fvm.ea a)) (s.fvm.opVal b bm (s.fvm.ea b)) = w)
    (hr : result s.fvm.flags (s.fvm.opVal a bm (s.fvm.ea a)) (s.fvm.opVal b bm (s.fvm.ea b)) = r) :
    exec i s = .next { s with fvm := ((s.fvm.setFlags w).store a bm (s.fvm.ea a) r).advance } :=
  hw ▸ hr ▸ exec_command_ok hi (aluOp_ok ha)

/-- The comparing form: `FLAGS` become the flag word `w` of the command, no operand is written. -/
theorem exec_compareOp {flags : Word → Word → Word}
    (hi : commandOp s.cfg.native i = some (compareOp bm a b flags))
    (hw : flags (s.fvm.opVal a bm (s.fvm.ea a)) (s.fvm.opVal b bm (s.fvm.ea b)) = w) :
    exec i s = .next { s with fvm := (s.fvm.setFlags w).advance } :=
  hw ▸ exec_command_ok hi compareOp_ok

/-- `FLAGS` are no destination: their write and a store change places. -/
theorem Fvm.setFlags_store : (f.setFlags w).store a bm ea v1 = (f.store a bm ea v1).setFlags w := by cases a <;> rfl

/-- INC writes its result before the flags of it (R343). -/
theorem opInc_ok (h : isImmForm a = false) : opInc bm a f = .ok ()
    ((f.store a bm (f.ea a) (incResult bm (f.opVal a bm (f.ea a)))).setFlags
      (flagsZS (incResult bm (f.opVal a bm (f.ea a))))).advance :=
  Fvm.setFlags_store ▸ incDec_ok (r := incResult bm) (flags := fun v => flagsZS (incResult bm v)) h

/-- DEC, in the same order (R344). -/
theorem opDec_ok (h : isImmForm a = false) : opDec bm a f = .ok ()
    ((f.store a bm (f.ea a) (f.opVal a bm (f.ea a) - 1)).setFlags (flagsZS (f.opVal a bm (f.ea a) - 1))).advance :=
  Fvm.setFlags_store ▸ incDec_ok (r := (· - 1)) (flags := fun v => flagsZS (v - 1)) h

end Sys2Proof.Machine

open Sys2Proof Sys2Proof.Machine

/-- Settles O8: by the comparing and the writing form; the flags of CMP are `flagsSub`, the others' `flagsZS`. -/
theorem compareAndLogicResults : Obligations.CompareAndLogicResults := by
  unfold Obligations.CompareAndLogicResults
  refine ⟨fun bm op1 op2 s => ⟨?_, ?_⟩, fun bm op1 op2 s h => ⟨?_, ?_, ?_⟩⟩
  · exact exec_compareOp rfl flagsSub_eq
  · exact exec_compareOp rfl rfl
  · exact exec_aluOp rfl h rfl rfl
  · exact exec_aluOp rfl h rfl rfl
  · exact exec_aluOp rfl h rfl rfl

/-- Settles O9: the carries by the writing form with each flag word written out, INC, DEC and NEG by their equations. -/
theorem addSubIncDecNegResults : Obligations.AddSubIncDecNegResults := by
  unfold Obligations.AddSubIncDecNegResults
  refine ⟨fun bm op1 op2 s h => ⟨?_, ?_⟩, fun bm op1 op2 s h => ⟨?_, ?_⟩, fun bm op1 s h => ⟨?_, ?_, ?_⟩⟩
  · exact exec_aluOp rfl h flagsAdd_eq rfl
  · exact exec_aluOp rfl h flagsSub_eq rfl
  · exact exec_aluOp rfl h flagsAdc_eq rfl
  · exact exec_aluOp rfl h flagsSbb_eq rfl
  · exact exec_command_ok rfl (opInc_ok h)
  · exact exec_command_ok rfl (opDec_ok h)
  · exact exec_command_ok rfl (opNeg_ok h)

/-- Settles O10: MUL, DIV and NOT by their equations, the shifts by the writing form. -/
theorem mulDivNotShiftResults : Obligations.MulDivNotShiftResults := by
  unfold Obligations.MulDivNotShiftResults
  refine ⟨fun bm op1 op2 s => ⟨fun hzero => ?_, fun h => ⟨?_, fun hv => ?_, ?_⟩⟩, fun bm op1 op2 s h => ⟨?_, ?_, ?_⟩⟩
  · exact exec_command_ok rfl (opDiv_zero hzero)
  · exact exec_command_ok rfl (opMul_ok h)
  · rw [← BitVec.udiv_def]
    exact exec_command_ok rfl (opDiv_ok h hv)
  · exact exec_command_ok rfl (opBnot_ok h)
  · exact exec_aluOp rfl h rfl rfl
  · exact exec_aluOp rfl h rfl rfl
  · exact exec_aluOp rfl h rfl rfl
end

section
/-! Control transfer, STANDARD and the NATIVE rows (47_fvm_control.md R371 to R382, R390, R391). -/

namespace Sys2Proof.Machine

variable {s : State} {i : Instr} {a : Operand}

/-- A jump goes to its operand's value where its condition on `FLAGS` holds and advances elsewhere (R370). -/
theorem exec_jumpIf {cond : Word → Bool} {p : Prop} [Decidable p]
    (hi : commandOp s.cfg.native i = some (jumpIf cond a)) (hp : cond s.fvm.flags = true ↔ p) :
    exec i s = .next
      { s with fvm := if p then s.fvm.setIp (s.fvm.opVal a false (s.fvm.ea a)) else s.fvm.advance } := by
  rw [exec_command_ok hi jumpIf_ok]
  simp only [hp]

/-- With `R[7]` at or above 0x40000 a RET ends the execution (R381). -/
theorem opRet_ends {f : Fvm} (h : vmMemSize ≤ (f.reg 7).toNat) : opRet f = .ok () f.finish := by
  simp [opRet, fvm_run_bind, h]

/-- Below 0x40000 a RET pops `ip` (R381). -/
theorem opRet_pops {f : Fvm} (h : (f.reg 7).toNat < vmMemSize) :
    opRet f = .ok () ((f.setIp (memRead32 f.mem (f.reg 7))).setReg 7 (f.reg 7 + 4)) := by
  simp [opRet, fvm_run_bind, Nat.not_le_of_lt h]

/-- A NATIVE row is `NATIVE` of its kind on the FVM (entry 25). -/
theorem exec_nativeInstr (k : StdKind) (s : State) :
    exec (nativeInstr k) s = .next { s with fvm := nativeApply s.cfg.native k s.fvm } := by
  cases k <;> exact runFvm_ok (fvm_run_modify _ _)

/-- `NATIVE` gives `Mem` and the registers alone, whatever its value (R391). -/
theorem nativeApply_eq (c : NativeChoice) (k : StdKind) (f : Fvm) :
    nativeApply c k f = { f with mem := (nativeApply c k f).mem, regs := (nativeApply c k f).regs } := by
  cases c with
  | default => cases k <;> rfl
  | given name => rfl

end Sys2Proof.Machine

open Sys2Proof Sys2Proof.Machine

/-- Settles O12: the jumps by their common form and the condition of each, CALL and RET by their equations. -/
theorem controlTransferResults : Obligations.ControlTransferResults := by
  unfold Obligations.ControlTransferResults
  refine ⟨fun op1 s => ⟨?_, ?_, ?_, ?_, ?_, ?_, ?_, ?_, ?_⟩, fun op1 s => ⟨?_, fun h => ?_, fun h => ?_, ?_⟩⟩
  · exact exec_jumpIf rfl (iff_of_true rfl trivial)
  · exact exec_jumpIf rfl bne_iff_ne
  · exact exec_jumpIf rfl beq_iff_eq
  · exact exec_jumpIf rfl bne_iff_ne
  · exact exec_jumpIf rfl beq_iff_eq
  · exact exec_jumpIf rfl bne_iff_ne
  · exact exec_jumpIf rfl beq_iff_eq
  · exact exec_jumpIf rfl bne_iff_ne
  · exact exec_jumpIf rfl beq_iff_eq
  · exact exec_command_ok rfl (opCall_run op1 s.fvm)
  · exact exec_command_ok rfl (opRet_ends h)
  · exact exec_command_ok rfl (opRet_pops h)
  · exact exec_command_ok rfl (advanceIp_run s.fvm)

/-- Settles O18: STANDARD is `NATIVE` and an advance, the row `NATIVE` alone; the default keeps the registers. -/
theorem nativeTransformsWriteMemOnly : Obligations.NativeTransformsWriteMemOnly := by
  unfold Obligations.NativeTransformsWriteMemOnly
  intro k s g
  have hg : g = { s.fvm with mem := g.mem, regs := g.regs } := nativeApply_eq s.cfg.native k s.fvm
  refine ⟨exec_command_ok rfl rfl, exec_nativeInstr k s, hg, fun hdefault => ?_⟩
  have hregs : g.regs = s.fvm.regs := by
    simp only [g, hdefault, nativeApply_default_regs]
  rw [hregs] at hg
  exact hg
end

section
/-! E8 and E8E9 (47_fvm_control.md R392, R393): a canonical memory is determined by its bytes, so the scan over `Mem` is a
store of the scanned list. -/

namespace Sys2Proof.Machine

variable {m m' : Memory} {dual : Bool} {n p fuel lo k k' : Nat} {b b' : Byte} {fo a offset : Word}

/-! ### Canonical memories are determined by their bytes -/

theorem Memory.wfFrom_cons : Memory.wfFrom lo ((k, b) :: m) = true ↔
    lo ≤ k ∧ b ≠ memDefault ∧ Memory.wfFrom (k + 1) m = true := by
  simp [Memory.wfFrom, and_assoc]

theorem Memory.read_head (k : Nat) (b : Byte) (m : Memory) : Memory.read ((k, b) :: m) k = b := by simp [Memory.read]

theorem Memory.read_tail {x : Nat} (b : Byte) (m : Memory) (h : k < x) : Memory.read ((k, b) :: m) x = m.read x := by
  simp [Memory.read, show ¬ x < k by omega, show x ≠ k by omega]

/-- An address a canonical memory lists first is not below the first of another memory with the same bytes. -/
theorem Memory.head_le_head (hb : b' ≠ memDefault)
    (h : ∀ x, Memory.read ((k, b) :: m) x = Memory.read ((k', b') :: m') x) : k ≤ k' := by
  by_contra hlt
  have hread := h k'
  rw [Memory.read_head, Memory.read, if_pos (Nat.lt_of_not_le hlt)] at hread
  exact hb hread.symm

theorem Memory.eq_of_read_from (hm : Memory.wfFrom lo m = true) (hm' : Memory.wfFrom lo m' = true)
    (h : ∀ x, m.read x = m'.read x) : m = m' := by
  induction m generalizing lo m' with
  | nil =>
    cases m' with
    | nil => rfl
    | cons c l =>
      exact absurd ((Memory.read_head c.1 c.2 l).symm.trans (h c.1).symm) (Memory.wfFrom_cons.mp hm').2.1
  | cons c l ih =>
    obtain ⟨k, b⟩ := c
    obtain ⟨-, hb, hl⟩ := Memory.wfFrom_cons.mp hm
    cases m' with
    | nil => exact absurd ((Memory.read_head k b l).symm.trans (h k)) hb
    | cons c' l' =>
      obtain ⟨k', b'⟩ := c'
      obtain ⟨-, hb', hl'⟩ := Memory.wfFrom_cons.mp hm'
      obtain rfl : k = k' := Nat.le_antisymm (Memory.head_le_head hb' h) (Memory.head_le_head hb fun x => (h x).symm)
      have hbyte := h k
      rw [Memory.read_head, Memory.read_head] at hbyte
      have htail (x : Nat) : Memory.read l x = Memory.read l' x := by
        by_cases hx : k < x
        · rw [← Memory.read_tail b l hx, h, Memory.read_tail b' l' hx]
        · rw [Memory.read_below hl (by omega), Memory.read_below hl' (by omega)]
      rw [hbyte, ih hl hl' htail]

/-- Two canonical memories with the same bytes are the same. -/
theorem Memory.eq_of_read (hm : m.wf = true) (hm' : m'.wf = true) (h : ∀ x, m.read x = m'.read x) : m = m' :=
  Memory.eq_of_read_from hm hm' h

/-- A byte stored where it stands changes nothing. -/
theorem Memory.write_read (hm : m.wf = true) (a : Nat) : m.write a (m.read a) = m := by
  refine Memory.eq_of_read (Memory.wf_write hm a _) hm fun x => ?_
  rw [Memory.read_write hm]
  split
  · rw [‹x = a›]
  · rfl

theorem Memory.readRange_congr {a n : Nat} (h : ∀ x, a ≤ x → x < a + n → m.read x = m'.read x) :
    m.readRange a n = m'.readRange a n := by
  rw [Memory.readRange_eq_map, Memory.readRange_eq_map]
  exact List.map_congr_left fun i hi => h _ (Nat.le_add_right a i) (by have := List.mem_range.mp hi; omega)

/-- Bytes stored where they stand change nothing. -/
theorem Memory.writeRange_readRange (hm : m.wf = true) (a n : Nat) : m.writeRange a (m.readRange a n) = m := by
  induction n generalizing a with
  | zero => rfl
  | succ n ih => rw [Memory.readRange, Memory.writeRange, Memory.write_read hm, ih]

/-- The bytes behind a stored byte string read as before. -/
theorem Memory.readRange_writeRange_below {a n : Nat} (hm : m.wf = true) (p : Nat) (bs : List Byte)
    (h : p + bs.length ≤ a) : (m.writeRange p bs).readRange a n = m.readRange a n :=
  Memory.readRange_congr fun _ hx _ => Memory.read_writeRange_other hm (.inr (by omega))

/-! ### The operand behind an opcode -/

theorem wordByte_memRead32 (m : Memory) (a : Word) {i : Nat} (hi : i < 4) :
    wordByte (memRead32 m a) i = m.read ((a.toNat + i) % vmMemSize) := by
  apply BitVec.eq_of_toNat_eq
  rw [wordByte, BitVec.extractLsb'_toNat, memRead32_eq, toNat_append_eq_add, toNat_append_eq_add, toNat_append_eq_add,
    Nat.shiftRight_eq_div_pow]
  interval_cases i <;> omega

/-- A word stored where it stands changes nothing. -/
theorem memWrite32_memRead32 (hm : m.wf = true) (a : Word) : memWrite32 m a (memRead32 m a) = m := by
  refine Memory.eq_of_read (memWrite32_wf hm a _) hm fun x => ?_
  by_cases hx : ∃ i < 4, x = (a.toNat + i) % vmMemSize
  · obtain ⟨i, hi, rfl⟩ := hx
    rw [read_memWrite32_byte hm a _ hi, wordByte_memRead32 m a hi]
  · exact (memWriteSetsItsBytesOnly m a _ x hm).2.2 fun i hi he => hx ⟨i, hi, he⟩

/-- What the loop of E8 makes of the operand at `a`. -/
def e8Operand (offset a : Word) (m : Memory) : Memory :=
  let addr := memRead32 m a
  if addr.msb then
    if (addr + offset).msb then m else memWrite32 m a (addr + 0x1000000)
  else if (addr - 0x1000000).msb then memWrite32 m a (addr - offset)
  else m

theorem e8Loop_opcode (hp : p < n - 4) (hb : m.read p = 0xE8 ∨ (dual = true ∧ m.read p = 0xE9)) :
    e8Loop dual n fo (fuel + 1) p m = e8Loop dual n fo fuel (p + 5)
      (e8Operand (BitVec.ofNat 32 (p + 1) + fo) (BitVec.ofNat 32 (p + 1)) m) := by
  simp only [e8Loop, if_pos hp, if_pos hb]
  rfl

theorem e8Loop_other (hp : p < n - 4) (hb : ¬ (m.read p = 0xE8 ∨ (dual = true ∧ m.read p = 0xE9))) :
    e8Loop dual n fo (fuel + 1) p m = e8Loop dual n fo fuel (p + 1) m := by
  simp only [e8Loop, if_pos hp, if_neg hb]

theorem e8Loop_end (hp : ¬ p < n - 4) : e8Loop dual n fo fuel p m = m := by
  cases fuel with
  | zero => rfl
  | succ fuel => rw [e8Loop, if_neg hp]

/-- The converted operand by the ranges of its value: negative, below 0x1000000, and between (R392). -/
theorem e8Operand_eq (hm : m.wf = true) (offset a : Word) :
    e8Operand offset a m = memWrite32 m a (e8Word offset (memRead32 m a)) := by
  have hsame := memWrite32_memRead32 hm a
  unfold e8Operand e8Word
  generalize memRead32 m a = addr at hsame ⊢
  have hneg (w : Word) : (w.msb = true ↔ w.toInt < 0) ∧ (w.msb = true ↔ 2 ^ 31 ≤ w.toNat) :=
    ⟨by rw [BitVec.msb_eq_toInt, decide_eq_true_iff], by rw [BitVec.msb_eq_decide, decide_eq_true_iff]⟩
  have hlow : ¬ 2 ^ 31 ≤ addr.toNat → (2 ^ 31 ≤ (addr - 0x1000000).toNat ↔ addr.toNat < 0x1000000) :=
    fun h => by bv_omega
  dsimp only
  by_cases hs : addr.msb = true
  · have hhigh : ¬ addr.toNat < 0x1000000 := by have := (hneg addr).2.mp hs; omega
    rw [if_pos hs, if_neg hhigh]
    by_cases hsum : (addr + offset).msb = true
    · have hnonneg : ¬ 0 ≤ (addr + offset).toInt := Int.not_le.mpr ((hneg _).1.mp hsum)
      rw [if_pos hsum, if_neg fun h => hnonneg h.2, hsame]
    · rw [if_neg hsum, if_pos ⟨(hneg addr).1.mp hs, Int.not_lt.mp (mt (hneg _).1.mpr hsum)⟩]
  · have hmsb := (hneg (addr - 0x1000000)).2.trans (hlow (mt (hneg addr).2.mpr hs))
    rw [if_neg hs, if_congr hmsb rfl rfl, if_neg fun h : addr.toInt < 0 ∧ _ => hs ((hneg addr).1.mpr h.1)]
    split
    · rfl
    · exact hsame.symm

/-! ### The scan -/

theorem e8Bytes_opcode (p : Nat) {b a0 a1 a2 a3 : Byte} {l : List Byte} (hb : b = 0xE8 ∨ (dual = true ∧ b = 0xE9)) :
    e8Bytes dual fo p (b :: a0 :: a1 :: a2 :: a3 :: l) =
      b :: (wordBytes (e8Word (BitVec.ofNat 32 (p + 1) + fo) (a3 ++ a2 ++ a1 ++ a0)) ++ e8Bytes dual fo (p + 5) l) := by
  rw [e8Bytes, if_pos hb]
  rfl

theorem e8Bytes_other (p : Nat) {b : Byte} {l : List Byte} (hl : 4 ≤ l.length)
    (hb : ¬ (b = 0xE8 ∨ (dual = true ∧ b = 0xE9))) : e8Bytes dual fo p (b :: l) = b :: e8Bytes dual fo (p + 1) l := by
  match l, hl with
  | a0 :: a1 :: a2 :: a3 :: l, _ => rw [e8Bytes, if_neg hb]

/-- Fewer than five bytes stay (R392). -/
theorem e8Bytes_short (p : Nat) {l : List Byte} (hl : l.length < 5) : e8Bytes dual fo p l = l := by
  match l, hl with
  | [], _ | [_], _ | [_, _], _ | [_, _, _], _ | [_, _, _, _], _ => rfl

theorem length_e8Bytes (p : Nat) (l : List Byte) : (e8Bytes dual fo p l).length = l.length := by
  fun_induction e8Bytes dual fo p l with
  | case1 p b a0 a1 a2 a3 l hb ih =>
    simp only [List.length_cons, List.length_append, List.length_map, List.length_range, ih]
    omega
  | case2 p b a0 a1 a2 a3 l hb ih => simpa using ih
  | case3 => rfl

theorem e8Loop_eq_of_end (hm : m.wf = true) (hp : ¬ p < n - 4) :
    e8Loop dual n fo fuel p m = m.writeRange p (e8Bytes dual fo p (m.readRange p (n - p))) := by
  rw [e8Loop_end hp, e8Bytes_short p (by rw [Memory.length_readRange]; omega), Memory.writeRange_readRange hm]

/-- The loop from position `p` on stores the scan of the bytes from there. -/
theorem e8Loop_eq (hm : m.wf = true) (hn : n ≤ vmMemSize) (hfuel : n ≤ p + fuel) :
    e8Loop dual n fo fuel p m = m.writeRange p (e8Bytes dual fo p (m.readRange p (n - p))) := by
  induction fuel generalizing p m with
  | zero => exact e8Loop_eq_of_end hm (by omega)
  | succ fuel ih =>
    by_cases hp : p < n - 4
    · obtain ⟨k, hk⟩ : ∃ k, n - p = k + 5 := ⟨n - p - 5, by omega⟩
      by_cases hb : m.read p = 0xE8 ∨ (dual = true ∧ m.read p = 0xE9)
      · have haddr : (BitVec.ofNat 32 (p + 1)).toNat = p + 1 := by
          rw [BitVec.toNat_ofNat]
          unfold vmMemSize at hn
          omega
        have hle : (BitVec.ofNat 32 (p + 1)).toNat + 4 ≤ vmMemSize := by omega
        have hrest : n - (p + 5) = k := by omega
        rw [e8Loop_opcode hp hb, e8Operand_eq hm, ih (memWrite32_wf hm _ _) (by omega), hrest,
          memWrite32_eq_writeRange hle, haddr, Memory.readRange_writeRange_below hm (p + 1) _ (Nat.le_refl (p + 5)), hk]
        rw [Memory.readRange, Memory.readRange, Memory.readRange, Memory.readRange, Memory.readRange,
          e8Bytes_opcode p hb, Memory.writeRange, Memory.write_read hm, Memory.writeRange_append,
          memRead32_eq_of_le hle, haddr]
        rfl
      · have hrest : n - (p + 1) = k + 4 := by omega
        rw [e8Loop_other hp hb, ih hm (by omega), hk, Memory.readRange,
          e8Bytes_other p (by rw [Memory.length_readRange]; omega) hb, Memory.writeRange, Memory.write_read hm, hrest]
    · exact e8Loop_eq_of_end hm hp

theorem e8Transform_skip {f : Memory} (h : 0x3C000 ≤ n ∨ n < 4) : e8Transform dual n fo f = f := if_pos h

/-- A byte after E8 or E8E9: of the scanned data, or as before (R392, R393). -/
theorem read_e8Transform (hm : m.wf = true) (h4 : 4 ≤ n) (hn : n < 0x3C000) (x : Nat) :
    (e8Transform dual n fo m).read x =
      if x < n then (e8Bytes dual fo 0 (m.readRange 0 n)).getD x 0 else m.read x := by
  have hlen : (e8Bytes dual fo 0 (m.readRange 0 n)).length = n := by rw [length_e8Bytes, Memory.length_readRange]
  rw [e8Transform, if_neg (by omega), e8Loop_eq hm (by unfold vmMemSize; omega) (Nat.le_add_left n 0), Nat.sub_zero]
  split
  · have hread := Memory.read_writeRange_mem hm 0 x (bs := e8Bytes dual fo 0 (m.readRange 0 n)) (by omega)
    rwa [Nat.zero_add] at hread
  · exact Memory.read_writeRange_other hm (.inr (by omega))

theorem nativeApply_e8 (dual : Bool) (f : Fvm) : nativeApply .default (if dual then .e8e9 else .e8) f =
    f.setMem (e8Transform dual (f.reg 4).toNat (f.reg 6) f.mem) := by cases dual <;> rfl

end Sys2Proof.Machine
end

section
/-! ITANIUM (47_fvm_control.md R394): `Mem` seen bit by bit, so that a field of a bundle is a range of bits whichever words
it is read and written through. -/

namespace Sys2Proof.Machine

variable {m : Memory} {n p i j k base bitpos count fuel : Nat} {fo : Word} {b c : BitVec 128} {a w : Word}

/-! ### The bits of `Mem` -/

/-- Bit `q` of a byte memory, the bits of each byte in rising order (20_memory.md R63). -/
def Memory.bit (m : Memory) (q : Nat) : Bool := (m.read (q / 8)).getLsbD (q % 8)

theorem Memory.read_eq_of_bit {m' : Memory} {x : Nat} (h : ∀ r < 8, m.bit (8 * x + r) = m'.bit (8 * x + r)) :
    m.read x = m'.read x := by
  refine BitVec.eq_of_getLsbD_eq fun r hr => ?_
  have hbit := h r hr
  simp only [Memory.bit] at hbit
  rwa [show (8 * x + r) / 8 = x by omega, show (8 * x + r) % 8 = r by omega] at hbit

theorem getLsbD_wordByte (w : Word) {i r : Nat} (hr : r < 8) : (wordByte w i).getLsbD r = w.getLsbD (8 * i + r) := by
  simp [wordByte, hr]

theorem getLsbD_memRead32 (h : a.toNat + 4 ≤ vmMemSize) {r : Nat} (hr : r < 32) :
    (memRead32 m a).getLsbD r = m.bit (8 * a.toNat + r) := by
  have hword := getLsbD_wordByte (memRead32 m a) (i := r / 8) (Nat.mod_lt r (by decide : 0 < 8))
  rw [wordByte_memRead32 m a (by omega), Nat.mod_eq_of_lt (by omega), Nat.div_add_mod] at hword
  rw [← hword, Memory.bit, show (8 * a.toNat + r) / 8 = a.toNat + r / 8 by omega,
    show (8 * a.toNat + r) % 8 = r % 8 by omega]

theorem bit_memWrite32 (hm : m.wf = true) (h : a.toNat + 4 ≤ vmMemSize) (q : Nat) : (memWrite32 m a w).bit q =
    if 8 * a.toNat ≤ q ∧ q < 8 * a.toNat + 32 then w.getLsbD (q - 8 * a.toNat) else m.bit q := by
  have hq : q % 8 < 8 := Nat.mod_lt q (by decide)
  unfold Memory.bit
  split
  · obtain ⟨i, hi, hdiv⟩ : ∃ i < 4, q / 8 = a.toNat + i := ⟨q / 8 - a.toNat, by omega, by omega⟩
    have hbyte := read_memWrite32_byte hm a w hi
    rw [Nat.mod_eq_of_lt (by omega)] at hbyte
    rw [hdiv, hbyte, getLsbD_wordByte w hq, show 8 * i + q % 8 = q - 8 * a.toNat by omega]
  · rw [memWrite32_eq_writeRange h, Memory.read_writeRange_other hm]
    change q / 8 < a.toNat ∨ a.toNat + 4 ≤ q / 8
    omega

/-- The bits of a little-endian number of `n` bytes are those of its bytes. -/
theorem testBit_sum_bytes (f : Nat → Byte) (n : Nat) :
    ((List.range n).map fun i => (f i).toNat * 256 ^ i).sum < 2 ^ (8 * n) ∧
      ∀ j < 8 * n, ((List.range n).map fun i => (f i).toNat * 256 ^ i).sum.testBit j = (f (j / 8)).getLsbD (j % 8) := by
  induction n with
  | zero => exact ⟨Nat.one_pos, fun j hj => absurd hj (Nat.not_lt_zero j)⟩
  | succ n ih =>
    obtain ⟨hlt, hbits⟩ := ih
    have hpow : 256 ^ n = 2 ^ (8 * n) := (Nat.pow_mul 2 8 n).symm
    have hbyte := (f n).isLt
    rw [List.range_succ, List.map_append, List.sum_append, List.map_singleton, List.sum_singleton, hpow, Nat.add_comm,
      Nat.mul_comm]
    refine ⟨?_, fun j hj => ?_⟩
    · rw [Nat.mul_succ, Nat.pow_add]
      have hstep := Nat.mul_le_mul_left (2 ^ (8 * n)) hbyte
      rw [Nat.mul_succ] at hstep
      omega
    · rw [Nat.testBit_two_pow_mul_add _ hlt]
      split
      · exact hbits j ‹_›
      · rw [show j / 8 = n by omega, show j % 8 = j - 8 * n by omega]
        rfl

/-- A bit of a bundle is a bit of `Mem`. -/
theorem getLsbD_bundleAt (hj : j < 128) : (bundleAt m p).getLsbD j = m.bit (8 * p + j) := by
  rw [bundleAt, BitVec.getLsbD_ofNat, decide_eq_true hj, Bool.true_and,
    (testBit_sum_bytes (fun i => m.read (p + i)) 16).2 j hj, Memory.bit, show (8 * p + j) / 8 = p + j / 8 by omega,
    show (8 * p + j) % 8 = j % 8 by omega]

/-! ### Fields -/

theorem toNat_fieldWord (h : base + bitpos / 8 + 4 ≤ vmMemSize) :
    (BitVec.ofNat 32 (base + bitpos / 8)).toNat = base + bitpos / 8 := by
  rw [BitVec.toNat_ofNat]
  unfold vmMemSize at h
  omega

theorem testBit_getBits (hb : base + bitpos / 8 + 4 ≤ vmMemSize) (hc : bitpos % 8 + count ≤ 32) (r : Nat) :
    (getBits m base bitpos count).testBit r = (decide (r < count) && m.bit (8 * base + bitpos + r)) := by
  have haddr := toNat_fieldWord hb
  rw [getBits, Nat.testBit_mod_two_pow, Nat.testBit_div_two_pow, ← BitVec.getLsbD]
  by_cases hr : r < count
  · rw [getLsbD_memRead32 (by omega) (by omega), haddr]
    congr 2
    omega
  · simp [hr]

/-- A word with the `count` bits from `s` on replaced by those of `v`. -/
theorem getLsbD_replaceField (w : Word) (v : Nat) {s count r : Nat} (hr : r < 32) :
    ((w &&& ~~~BitVec.ofNat 32 ((2 ^ count - 1) * 2 ^ s)) ||| BitVec.ofNat 32 (v % 2 ^ count * 2 ^ s)).getLsbD r =
      if s ≤ r ∧ r < s + count then v.testBit (r - s) else w.getLsbD r := by
  simp only [BitVec.getLsbD_or, BitVec.getLsbD_and, BitVec.getLsbD_not, BitVec.getLsbD_ofNat, Nat.testBit_mul_two_pow,
    Nat.testBit_two_pow_sub_one, Nat.testBit_mod_two_pow, hr]
  by_cases h1 : s ≤ r <;> by_cases h2 : r < s + count
  · simp [h1, h2, show r - s < count by omega]
  · simp [h1, h2, show ¬ r - s < count by omega]
  · simp [h1]
  · simp [h1]

/-- `SetBits` sets the bits of its field and no other. -/
theorem bit_setBits (hm : m.wf = true) (hb : base + bitpos / 8 + 4 ≤ vmMemSize) (hc : bitpos % 8 + count ≤ 32)
    (v q : Nat) : (setBits m base v bitpos count).bit q =
      if 8 * base + bitpos ≤ q ∧ q < 8 * base + bitpos + count then v.testBit (q - (8 * base + bitpos)) else m.bit q := by
  have haddr := toNat_fieldWord hb
  have hle : (BitVec.ofNat 32 (base + bitpos / 8)).toNat + 4 ≤ vmMemSize := by omega
  rw [setBits, bit_memWrite32 hm hle, haddr]
  by_cases hword : 8 * (base + bitpos / 8) ≤ q ∧ q < 8 * (base + bitpos / 8) + 32
  · obtain ⟨r, hr, rfl⟩ : ∃ r < 32, q = 8 * (base + bitpos / 8) + r := ⟨q - 8 * (base + bitpos / 8), by omega, by omega⟩
    rw [if_pos hword, Nat.add_sub_cancel_left, getLsbD_replaceField _ v hr, getLsbD_memRead32 hle hr, haddr]
    refine if_congr ⟨fun h => by omega, fun h => by omega⟩ ?_ rfl
    congr 1
    omega
  · rw [if_neg hword, if_neg (by omega)]

/-- `GetBits` within a bundle. -/
theorem getBits_eq (hp : p + 19 ≤ vmMemSize) (hb : bitpos + count ≤ 128) (hc : bitpos % 8 + count ≤ 32) (h0 : 0 < count) :
    getBits m p bitpos count = ((bundleAt m p).extractLsb' bitpos count).toNat := by
  refine Nat.eq_of_testBit_eq fun r => ?_
  rw [testBit_getBits (by omega) hc, BitVec.testBit_toNat, BitVec.getLsbD_extractLsb']
  by_cases hr : r < count
  · rw [getLsbD_bundleAt (by omega), Nat.add_assoc]
  · simp [hr]

theorem getLsbD_bundleAt_setBits (hm : m.wf = true) (hp : p + 19 ≤ vmMemSize) (hb : bitpos + count ≤ 128)
    (hc : bitpos % 8 + count ≤ 32) (h0 : 0 < count) (v : Nat) (hj : j < 128) :
    (bundleAt (setBits m p v bitpos count) p).getLsbD j =
      if bitpos ≤ j ∧ j < bitpos + count then v.testBit (j - bitpos) else (bundleAt m p).getLsbD j := by
  rw [getLsbD_bundleAt hj, getLsbD_bundleAt hj, bit_setBits hm (by omega) hc]
  exact if_congr (by omega) (by rw [Nat.add_sub_add_left]) rfl

theorem read_setBits_other (hm : m.wf = true) (hp : p + 19 ≤ vmMemSize) (hb : bitpos + count ≤ 128)
    (hc : bitpos % 8 + count ≤ 32) (h0 : 0 < count) (v : Nat) {x : Nat} (hx : x < p ∨ p + 16 ≤ x) :
    (setBits m p v bitpos count).read x = m.read x :=
  Memory.read_eq_of_bit fun r hr => by rw [bit_setBits hm (by omega) hc, if_neg (by omega)]

/-! ### One bundle -/

/-- The target field of a slot (R394). -/
def targetField (b : BitVec 128) (i : Nat) : BitVec 20 := b.extractLsb' (41 * i + 18) 20

/-- The opcode field of a slot (R394). -/
def opcodeField (b : BitVec 128) (i : Nat) : BitVec 4 := b.extractLsb' (41 * i + 42) 4

/-- What the slots of a list make of a bundle: the target field of each whose opcode field is 5 is lowered, and no other bit
changes. -/
structure BundleStep (fo : Word) (slots : List Nat) (b c : BitVec 128) : Prop where
  field : ∀ i < 3, targetField c i =
    if i ∈ slots ∧ opcodeField b i = 5 then targetField b i - fo.setWidth 20 else targetField b i
  bits : ∀ j < 128, (∀ i < 3, j < 41 * i + 18 ∨ 41 * i + 38 ≤ j) → c.getLsbD j = b.getLsbD j

namespace BundleStep
variable {slots : List Nat}

theorem refl (hslots : ∀ i ∈ slots, opcodeField b i ≠ 5) : BundleStep fo slots b b where
  field i _ := (if_neg fun h => hslots i h.1 h.2).symm
  bits _ _ _ := rfl

/-- The opcode fields are no part of the target fields. -/
theorem opcode (h : BundleStep fo slots b c) (hi : i < 3) : opcodeField c i = opcodeField b i := by
  refine BitVec.eq_of_getLsbD_eq fun r hr => ?_
  rw [opcodeField, opcodeField, BitVec.getLsbD_extractLsb', BitVec.getLsbD_extractLsb',
    h.bits _ (by omega) fun q hq => by omega]

theorem cons {d : BitVec 128} (h1 : BundleStep fo [i] b c) (h2 : BundleStep fo slots c d) (hi : i ∉ slots) :
    BundleStep fo (i :: slots) b d where
  field q hq := by
    rw [h2.field q hq, h1.opcode hq, h1.field q hq]
    by_cases hqi : q = i
    · subst hqi
      simp [hi]
    · simp [hqi]
  bits j hj hout := (h2.bits j hj hout).trans (h1.bits j hj hout)

end BundleStep

/-- A slot whose opcode field is 5. -/
theorem bundleStep_setBits (hm : m.wf = true) (hp : p + 19 ≤ vmMemSize) (hi : i < 3)
    (hop : opcodeField (bundleAt m p) i = 5) : BundleStep fo [i] (bundleAt m p)
      (bundleAt (setBits m p (targetField (bundleAt m p) i - fo.setWidth 20).toNat (41 * i + 18) 20) p) where
  field q hq := by
    refine BitVec.eq_of_getLsbD_eq fun r hr => ?_
    rw [targetField, BitVec.getLsbD_extractLsb', decide_eq_true hr, Bool.true_and,
      getLsbD_bundleAt_setBits hm hp (by omega) (by omega) (by decide) _ (by omega)]
    by_cases hqi : q = i
    · subst hqi
      rw [if_pos (by omega), if_pos ⟨List.mem_singleton_self q, hop⟩, Nat.add_sub_cancel_left, BitVec.testBit_toNat]
    · rw [if_neg (by omega), if_neg (by simp [hqi]), targetField, BitVec.getLsbD_extractLsb', decide_eq_true hr,
        Bool.true_and]
  bits j hj hout := by
    have hslot := hout i hi
    rw [getLsbD_bundleAt_setBits hm hp (by omega) (by omega) (by decide) _ hj, if_neg (by omega)]

theorem itaniumSlot_eq (hp : p + 19 ≤ vmMemSize) (fo : Word) (hi : i < 3) : itaniumSlot fo p i m =
    if opcodeField (bundleAt m p) i = 5 then
      setBits m p (targetField (bundleAt m p) i - fo.setWidth 20).toNat (41 * i + 18) 20
    else m := by
  have hop : getBits m p (41 * i + 42) 4 = 5 ↔ opcodeField (bundleAt m p) i = 5 := by
    rw [getBits_eq hp (by omega) (by omega) (by decide), ← BitVec.toNat_inj]
    rfl
  have htarget : getBits m p (41 * i + 18) 20 = (targetField (bundleAt m p) i).toNat :=
    getBits_eq hp (by omega) (by omega) (by decide)
  simp only [itaniumSlot, hop, Nat.add_assoc, Nat.reduceAdd, htarget, BitVec.ofNat_toNat, BitVec.setWidth_eq]

theorem bundleStep_itaniumSlot (hm : m.wf = true) (hp : p + 19 ≤ vmMemSize) (fo : Word) (hi : i < 3) :
    BundleStep fo [i] (bundleAt m p) (bundleAt (itaniumSlot fo p i m) p) := by
  rw [itaniumSlot_eq hp fo hi]
  split
  · exact bundleStep_setBits hm hp hi ‹_›
  · exact .refl (List.forall_mem_singleton.mpr ‹_›)

/-- The slots of a list, each at most once. -/
theorem bundleStep_foldl {slots : List Nat} (hm : m.wf = true) (hp : p + 19 ≤ vmMemSize) (fo : Word)
    (hslots : ∀ i ∈ slots, i < 3) (hnodup : slots.Nodup) :
    BundleStep fo slots (bundleAt m p) (bundleAt (slots.foldl (fun m i => itaniumSlot fo p i m) m) p) := by
  induction slots generalizing m with
  | nil => exact .refl fun _ hi => (nomatch hi)
  | cons i slots ih =>
    obtain ⟨hi, hslots⟩ := List.forall_mem_cons.mp hslots
    obtain ⟨hnotin, hnodup⟩ := List.nodup_cons.mp hnodup
    exact (bundleStep_itaniumSlot hm hp fo hi).cons (ih (wf_storeClosed.itaniumSlot hm) hslots hnodup) hnotin

/-- The slots that the template of a bundle names (R394). -/
def namedSlots (b : BitVec 128) : List Nat := (List.range 3).filter (branchSlot (b.extractLsb' 0 5).toNat)

theorem mem_namedSlots (hi : i < 3) : i ∈ namedSlots b ↔ branchSlot (b.extractLsb' 0 5).toNat i = true := by
  rw [namedSlots, List.mem_filter]
  exact and_iff_right (List.mem_range.mpr hi)

theorem lt_of_mem_namedSlots (h : i ∈ namedSlots b) : i < 3 := List.mem_range.mp (List.mem_filter.mp h).1

theorem template_eq : ((bundleAt m p).extractLsb' 0 5).toNat = byteAt m p % 32 := by
  refine Nat.eq_of_testBit_eq fun r => ?_
  rw [BitVec.testBit_toNat, BitVec.getLsbD_extractLsb', show (32 : Nat) = 2 ^ 5 from rfl, Nat.testBit_mod_two_pow]
  by_cases hr : r < 5
  · rw [getLsbD_bundleAt (by omega), Memory.bit, show (8 * p + (0 + r)) / 8 = p by omega,
      show (8 * p + (0 + r)) % 8 = r by omega]
    rfl
  · simp [hr]

/-- `MASKS` names the branch slots (R394). -/
theorem branchSlot_eq : ∀ t < 32, ∀ i < 3,
    branchSlot t i = (decide (16 ≤ t) && (itaniumMasks.getD (t - 16) 0).testBit i) := by decide

theorem itaniumBundle_eq (fo : Word) (p : Nat) (m : Memory) :
    itaniumBundle fo p m = (namedSlots (bundleAt m p)).foldl (fun m i => itaniumSlot fo p i m) m := by
  have hslot := branchSlot_eq (byteAt m p % 32) (Nat.mod_lt _ (by decide))
  rw [namedSlots, template_eq, List.foldl_filter, show List.range 3 = [0, 1, 2] from rfl]
  by_cases ht : byteAt m p % 32 < 16
  · simp [itaniumBundle, ht, hslot, Nat.not_le_of_lt ht]
  · simp [itaniumBundle, ht, hslot, Nat.le_of_not_lt ht]

theorem bundleStep_itaniumBundle (hm : m.wf = true) (hp : p + 19 ≤ vmMemSize) (fo : Word) :
    BundleStep fo (namedSlots (bundleAt m p)) (bundleAt m p) (bundleAt (itaniumBundle fo p m) p) :=
  itaniumBundle_eq fo p m ▸
    bundleStep_foldl hm hp fo (fun _ => lt_of_mem_namedSlots) (List.Nodup.filter _ List.nodup_range)

/-- A bundle's slots write within its 16 bytes. -/
theorem read_itaniumBundle_other (hm : m.wf = true) (hp : p + 19 ≤ vmMemSize) (fo : Word) {x : Nat}
    (hx : x < p ∨ p + 16 ≤ x) : (itaniumBundle fo p m).read x = m.read x := by
  rw [itaniumBundle_eq]
  refine (List.foldlRecOn (motive := fun m' : Memory => m'.wf = true ∧ m'.read x = m.read x) _ _ ⟨hm, rfl⟩
    fun m' h i hi => ⟨wf_storeClosed.itaniumSlot h.1, ?_⟩).2
  have hi := lt_of_mem_namedSlots hi
  rw [itaniumSlot_eq hp fo hi]
  split
  · exact (read_setBits_other h.1 hp (by omega) (by omega) (by decide) _ hx).trans h.2
  · exact h.2

/-! ### The loop -/

theorem bundleAt_congr {m' : Memory} (h : ∀ x, p ≤ x → x < p + 16 → m'.read x = m.read x) :
    bundleAt m' p = bundleAt m p := by
  refine BitVec.eq_of_getLsbD_eq fun j hj => ?_
  rw [getLsbD_bundleAt hj, getLsbD_bundleAt hj, Memory.bit, Memory.bit, h _ (by omega) (by omega)]

/-- From bundle `k` on, the loop changes no byte below it and none of a bundle that does not end 6 bytes before `n`. -/
theorem read_itaniumLoop_other (hm : m.wf = true) (hn : n ≤ vmMemSize) (fo : Word) {x : Nat}
    (hx : x < 16 * k ∨ n ≤ 16 * (x / 16) + 21) : (itaniumLoop n fuel (16 * k) fo m).read x = m.read x := by
  induction fuel generalizing k fo m with
  | zero => rfl
  | succ fuel ih =>
    unfold itaniumLoop
    split
    · rw [show 16 * k + 16 = 16 * (k + 1) by omega, ih (wf_storeClosed.itaniumBundle hm) _ (by omega),
        read_itaniumBundle_other hm (by omega) fo (by omega)]
    · rfl

/-- From bundle `k` on, each bundle is one step, on bytes that the bundles before it have left alone. -/
theorem bundleStep_itaniumLoop (hm : m.wf = true) (hn : n ≤ vmMemSize) (hfuel : n ≤ k + fuel) (fo : Word) {q : Nat}
    (hkq : k ≤ q) (hq : 16 * q + 21 < n) :
    BundleStep (fo + BitVec.ofNat 32 q) (namedSlots (bundleAt m (16 * q))) (bundleAt m (16 * q))
      (bundleAt (itaniumLoop n fuel (16 * k) (fo + BitVec.ofNat 32 k) m) (16 * q)) := by
  induction fuel generalizing k m with
  | zero => omega
  | succ fuel ih =>
    have hwf := wf_storeClosed.itaniumBundle (fo := fo + BitVec.ofNat 32 k) (p := 16 * k) hm
    rw [itaniumLoop, if_pos (by omega), show 16 * k + 16 = 16 * (k + 1) by omega, BitVec.add_assoc,
      show BitVec.ofNat 32 k + 1 = BitVec.ofNat 32 (k + 1) from (BitVec.ofNat_add k 1).symm]
    obtain rfl | hlt := Nat.eq_or_lt_of_le hkq
    · rw [bundleAt_congr fun x _ hx => read_itaniumLoop_other hwf hn _ (.inl (by omega))]
      exact bundleStep_itaniumBundle hm (by omega) _
    · have hsame : bundleAt (itaniumBundle (fo + BitVec.ofNat 32 k) (16 * k) m) (16 * q) = bundleAt m (16 * q) :=
        bundleAt_congr fun x hx _ => read_itaniumBundle_other hm (by omega) _ (.inr (by omega))
      have hstep := ih hwf (by omega) hlt
      rwa [hsame] at hstep

theorem itaniumTransform_eq (h21 : 21 ≤ n) (hn : n < 0x3C000) (fo : Word) :
    itaniumTransform n fo m = itaniumLoop n n (16 * 0) (fo >>> 4 + BitVec.ofNat 32 0) m := by
  rw [itaniumTransform, if_neg (by omega), BitVec.add_zero]

end Sys2Proof.Machine

open Sys2Proof Sys2Proof.Machine

/-- Settles O19: E8 and E8E9 by the scan that their loop stores, ITANIUM bundle by bundle. -/
theorem inPlaceTransformResults : Obligations.InPlaceTransformResults := by
  unfold Obligations.InPlaceTransformResults
  refine ⟨fun dual f hm => ?_, fun f hm => ?_⟩
  · rw [nativeApply_e8]
    exact ⟨fun h => congrArg f.setMem (e8Transform_skip h), read_e8Transform hm⟩
  · intro n g
    refine ⟨fun h => congrArg f.setMem (if_pos h), fun h21 hn => ?_⟩
    have hg : g.mem = _ := itaniumTransform_eq h21 hn (f.reg 6)
    have hsize : n ≤ vmMemSize := Nat.le_of_lt (Nat.lt_trans hn (by decide))
    rw [hg]
    refine ⟨fun k hk => ?_, fun x hx => read_itaniumLoop_other hm hsize _ (.inr hx)⟩
    have hstep := bundleStep_itaniumLoop hm hsize (Nat.le_add_left n 0) (f.reg 6 >>> 4) (Nat.zero_le k) hk
    exact ⟨fun i hi => (hstep.field i hi).trans (if_congr (and_congr_left' (mem_namedSlots hi)) rfl rfl), hstep.bits⟩
end

section
/-! The interleaved output of DELTA, RGB and AUDIO (47_fvm_control.md R395 to R397), as one: channel `c` of `ch` turns its
data bytes, one behind the other, into the bytes `c`, `c + ch`, ... of the output at `n`. -/

namespace Sys2Proof.Machine

/-! ### Where a channel's bytes stand in the data -/

section Counting
variable {n ch c j : Nat}

/-- How many of `n` bytes dealt to `ch` channels are of channel `c`. -/
def channelLen (n ch c : Nat) : Nat := (n - c + ch - 1) / ch

theorem lt_channelLen (hch : 0 < ch) : j < channelLen n ch c ↔ c + j * ch < n := by
  rw [channelLen, ← Nat.add_one_le_iff, Nat.le_div_iff_mul_le hch, Nat.succ_mul]
  omega

theorem channelLen_le (hch : 0 < ch) : channelLen n ch c ≤ n := by
  by_contra hlt
  have hpos := (lt_channelLen hch).mp (Nat.lt_of_not_le hlt)
  have hle := Nat.le_mul_of_pos_right n hch
  omega

theorem channelStart_succ (n ch c : Nat) : channelStart n ch (c + 1) = channelStart n ch c + channelLen n ch c := by
  rw [channelStart, List.range_succ, List.map_append, List.sum_append, List.map_singleton, List.sum_singleton]
  rfl

/-- Each channel has the whole share `n / ch`, each of the first `n % ch` one byte more. -/
theorem channelLen_eq (hc : c < ch) : channelLen n ch c = n / ch + if c < n % ch then 1 else 0 := by
  have hdiv := Nat.div_add_mod' n ch
  have hmod := Nat.mod_lt n (Nat.zero_lt_of_lt hc)
  have hsucc (q : Nat) : (q + 1) * ch = q * ch + ch := Nat.succ_mul q ch
  split
  · exact Nat.div_eq_of_lt_le (by rw [hsucc]; omega) (by rw [hsucc, hsucc]; omega)
  · rw [Nat.add_zero]
    exact Nat.div_eq_of_lt_le (by omega) (by rw [hsucc]; omega)

theorem channelStart_eq (hc : c ≤ ch) : channelStart n ch c = c * (n / ch) + min c (n % ch) := by
  induction c with
  | zero => simp [channelStart]
  | succ c ih =>
    rw [channelStart_succ, ih (by omega), channelLen_eq hc, Nat.succ_mul]
    split <;> omega

/-- The channels' bytes are the `n` data bytes. -/
theorem channelStart_all (hch : 0 < ch) : channelStart n ch ch = n := by
  rw [channelStart_eq (Nat.le_refl ch), Nat.min_eq_right (Nat.le_of_lt (Nat.mod_lt n hch)), Nat.div_add_mod]

theorem channelStart_mono {d : Nat} (h : c ≤ d) : channelStart n ch c ≤ channelStart n ch d := by
  induction d, h using Nat.le_induction with
  | base => exact Nat.le_refl _
  | succ d _ ih => exact ih.trans (channelStart_succ n ch d ▸ Nat.le_add_right _ _)

/-- A channel's data bytes are data. -/
theorem channelStart_add_lt (hc : c < ch) (hj : c + j * ch < n) : channelStart n ch c + j < n := by
  have hch : 0 < ch := by omega
  calc channelStart n ch c + j
      < channelStart n ch c + channelLen n ch c := Nat.add_lt_add_left ((lt_channelLen hch).mpr hj) _
    _ = channelStart n ch (c + 1) := (channelStart_succ n ch c).symm
    _ ≤ channelStart n ch ch := channelStart_mono hc
    _ = n := channelStart_all hch

/-- An index of the output determines its channel and its place there. -/
theorem channel_index_inj {c' j' : Nat} (hc : c < ch) (hc' : c' < ch) (h : c + j * ch = c' + j' * ch) :
    c = c' ∧ j = j' := by
  have hmod := congrArg (· % ch) h
  simp only [Nat.add_mul_mod_self_right, Nat.mod_eq_of_lt hc, Nat.mod_eq_of_lt hc'] at hmod
  subst hmod
  exact ⟨rfl, Nat.eq_of_mul_eq_mul_right (Nat.zero_lt_of_lt hc) (Nat.add_left_cancel h)⟩

end Counting

/-! ### One channel, all channels -/

section Channels
variable {σ : Type} {next : Memory → Nat → σ → Byte → Byte × σ} {n ch C c d j k src fuel x : Nat} {a : σ} {m : Memory}

/-- The loop that DELTA, RGB and AUDIO have in common, from output index `i` on: `next` makes the output byte and the next
predictor from `Mem`, the index, the predictor and the data byte. -/
def channelLoop (next : Memory → Nat → σ → Byte → Byte × σ) (n ch : Nat) : Nat → Nat → σ → Memory × Nat → Memory × Nat
  | 0, _, _, r => r
  | fuel + 1, i, a, (m, src) =>
    if i < n then
      let o := next m i a (m.read src)
      channelLoop next n ch fuel (i + ch) o.2 (m.write (n + i) o.1, src + 1)
    else (m, src)

/-- Predictor and memory before byte `j` of channel `c`, whose data begins at `src`. -/
def channelAt (next : Memory → Nat → σ → Byte → Byte × σ) (n ch c src : Nat) (a : σ) (m : Memory) : Nat → σ × Memory
  | 0 => (a, m)
  | j + 1 =>
    let r := channelAt next n ch c src a m j
    let o := next r.2 (c + j * ch) r.1 (r.2.read (src + j))
    (o.2, r.2.write (n + (c + j * ch)) o.1)

/-- The loop ends in the memory behind the channel's last byte. -/
theorem channelLoop_eq (hch : 0 < ch) (hj : j ≤ channelLen n ch c) (hfuel : channelLen n ch c ≤ j + fuel) :
    channelLoop next n ch fuel (c + j * ch) (channelAt next n ch c src a m j).1
        ((channelAt next n ch c src a m j).2, src + j) =
      ((channelAt next n ch c src a m (channelLen n ch c)).2, src + channelLen n ch c) := by
  induction fuel generalizing j with
  | zero =>
    obtain rfl : j = channelLen n ch c := by omega
    rfl
  | succ fuel ih =>
    obtain rfl | hlt := Nat.eq_or_lt_of_le hj
    · rw [channelLoop, if_neg fun h => Nat.lt_irrefl _ ((lt_channelLen hch).mpr h)]
    · rw [channelLoop, if_pos ((lt_channelLen hch).mp hlt), Nat.add_assoc c, ← Nat.succ_mul]
      exact ih hlt (by omega)

/-- The memory before channel `c`. -/
def channelsMem (next : Memory → Nat → σ → Byte → Byte × σ) (n ch : Nat) (a : σ) (m : Memory) : Nat → Memory
  | 0 => m
  | c + 1 => (channelAt next n ch c (channelStart n ch c) a (channelsMem next n ch a m c) (channelLen n ch c)).2

/-- Predictor and memory before byte `j` of channel `c`, from the start of all channels. -/
def channelsAt (next : Memory → Nat → σ → Byte → Byte × σ) (n ch : Nat) (a : σ) (m : Memory) (c j : Nat) : σ × Memory :=
  channelAt next n ch c (channelStart n ch c) a (channelsMem next n ch a m c) j

theorem channelLoop_foldl (hC : C ≤ ch) :
    (List.range C).foldl (fun r c => channelLoop next n ch n c a r) (m, 0) =
      (channelsMem next n ch a m C, channelStart n ch C) := by
  induction C with
  | zero => rfl
  | succ c ih =>
    rw [List.range_succ, List.foldl_append, ih (Nat.le_of_lt hC), List.foldl_cons, List.foldl_nil, channelStart_succ]
    have hch : 0 < ch := Nat.zero_lt_of_lt hC
    have hloop := channelLoop_eq (next := next) (n := n) (c := c) (j := 0) (fuel := n) (src := channelStart n ch c) (a := a)
      (m := channelsMem next n ch a m c) hch (Nat.zero_le _) ((channelLen_le hch).trans (Nat.le_add_left n 0))
    rwa [Nat.zero_mul] at hloop

/-! ### What the channels leave of `Mem` -/

theorem channelAt_wf (hm : m.wf = true) : (channelAt next n ch c src a m j).2.wf = true := by
  induction j with
  | zero => exact hm
  | succ j ih => exact Memory.wf_write ih _ _

theorem channelsMem_wf (hm : m.wf = true) : (channelsMem next n ch a m c).wf = true := by
  induction c with
  | zero => exact hm
  | succ c ih => exact channelAt_wf ih

/-- From its byte `j` up to its byte `k`, a channel writes the bytes between alone. -/
theorem read_channelAt (hm : m.wf = true) (hjk : j ≤ k) (hx : ∀ i, j ≤ i → i < k → x ≠ n + (c + i * ch)) :
    (channelAt next n ch c src a m k).2.read x = (channelAt next n ch c src a m j).2.read x := by
  induction k, hjk using Nat.le_induction with
  | base => rfl
  | succ k hjk ih =>
    rw [channelAt, Memory.read_write (channelAt_wf hm), if_neg (hx k hjk (Nat.lt_succ_self k))]
    exact ih fun i hi hik => hx i hi (Nat.lt_succ_of_lt hik)

/-- From channel `c` up to channel `d`, the bytes of the channels between alone are written. -/
theorem read_channelsMem (hm : m.wf = true) (hcd : c ≤ d)
    (hx : ∀ b, c ≤ b → b < d → ∀ i < channelLen n ch b, x ≠ n + (b + i * ch)) :
    (channelsMem next n ch a m d).read x = (channelsMem next n ch a m c).read x := by
  induction d, hcd using Nat.le_induction with
  | base => rfl
  | succ d hcd ih =>
    rw [channelsMem, read_channelAt (channelsMem_wf hm) (Nat.zero_le _) fun i _ hi => hx d hcd (Nat.lt_succ_self d) i hi]
    exact ih fun b hb hbd => hx b hb (Nat.lt_succ_of_lt hbd)

theorem ne_output (hch : 0 < ch) (hx : x < n ∨ 2 * n ≤ x) (b : Nat) {i : Nat} (hi : i < channelLen n ch b) :
    x ≠ n + (b + i * ch) := by
  have hlt := (lt_channelLen hch).mp hi
  omega

/-- A byte outside the output reads as before. -/
theorem read_channelsMem_outside (hm : m.wf = true) (hC : C ≤ ch) (hx : x < n ∨ 2 * n ≤ x) :
    (channelsMem next n ch a m C).read x = m.read x :=
  read_channelsMem hm (Nat.zero_le C) fun b _ hb _ hi => ne_output (by omega) hx b hi

/-- A byte outside the output reads as before between any two bytes of the channels, too. -/
theorem read_channelsAt_outside (hm : m.wf = true) (hc : c < ch) (hj : j ≤ channelLen n ch c)
    (hx : x < n ∨ 2 * n ≤ x) : (channelsAt next n ch a m c j).2.read x = m.read x :=
  (read_channelAt (channelsMem_wf hm) (Nat.zero_le j) fun _ _ hi =>
    ne_output (Nat.zero_lt_of_lt hc) hx c (Nat.lt_of_lt_of_le hi hj)).trans
    (read_channelsMem_outside hm (Nat.le_of_lt hc) hx)

/-- A byte of the output that comes before byte `j` of channel `c` reads from then on as in the end. -/
theorem read_channelsAt_written (hm : m.wf = true) (hC : C ≤ ch) (hc : c < C) (hj : j ≤ channelLen n ch c) {d i : Nat}
    (hd : d < ch) (hdone : d < c ∨ (d = c ∧ i < j)) :
    (channelsAt next n ch a m c j).2.read (n + (d + i * ch)) = (channelsMem next n ch a m C).read (n + (d + i * ch)) := by
  have hne (b : Nat) (hb : b < ch) (q : Nat) (hq : ¬ (d = b ∧ i = q)) : n + (d + i * ch) ≠ n + (b + q * ch) :=
    fun h => hq (channel_index_inj hd hb (Nat.add_left_cancel h))
  refine (read_channelAt (channelsMem_wf hm) hj fun q hjq hq => hne c (by omega) q (by omega)).symm.trans ?_
  exact (read_channelsMem (c := c + 1) hm hc fun b hb hbC q _ => hne b (by omega) q (by omega)).symm

/-- A byte of the output that comes at or behind byte `j` of channel `c` reads as before until then. -/
theorem read_channelsAt_unwritten (hm : m.wf = true) (hc : c < ch) {d i : Nat}
    (hd : d < ch) (hdone : ¬ (d < c ∨ (d = c ∧ i < j))) :
    (channelsAt next n ch a m c j).2.read (n + (d + i * ch)) = m.read (n + (d + i * ch)) := by
  have hne (b : Nat) (hb : b < ch) (q : Nat) (hq : ¬ (d = b ∧ i = q)) : n + (d + i * ch) ≠ n + (b + q * ch) :=
    fun h => hq (channel_index_inj hd hb (Nat.add_left_cancel h))
  exact (read_channelAt (channelsMem_wf hm) (Nat.zero_le j) fun q _ hq => hne c hc q (by omega)).trans
    (read_channelsMem hm (Nat.zero_le c) fun b _ hb q _ => hne b (by omega) q (by omega))

theorem read_channelsAt_data (hm : m.wf = true) (hc : c < ch) (hj : c + j * ch < n) :
    (channelsAt next n ch a m c j).2.read (channelStart n ch c + j) = m.read (channelStart n ch c + j) :=
  read_channelsAt_outside hm hc (Nat.le_of_lt ((lt_channelLen (Nat.zero_lt_of_lt hc)).mpr hj))
    (.inl (channelStart_add_lt hc hj))

/-- The predictor behind byte `j` of channel `c` is the one that `next` makes of the data byte there. -/
theorem channelsAt_succ (hm : m.wf = true) (hc : c < ch) (hj : c + j * ch < n) :
    (channelsAt next n ch a m c (j + 1)).1 = (next (channelsAt next n ch a m c j).2 (c + j * ch)
      (channelsAt next n ch a m c j).1 (m.read (channelStart n ch c + j))).2 := by
  rw [← read_channelsAt_data hm hc hj]
  rfl

/-- The output byte is the one that `next` makes of it. -/
theorem read_output (hm : m.wf = true) (hC : C ≤ ch) (hc : c < C) (hj : c + j * ch < n) :
    (channelsMem next n ch a m C).read (n + (c + j * ch)) = (next (channelsAt next n ch a m c j).2 (c + j * ch)
      (channelsAt next n ch a m c j).1 (m.read (channelStart n ch c + j))).1 := by
  have hch : c < ch := Nat.lt_of_lt_of_le hc hC
  have hlen := (lt_channelLen (Nat.zero_lt_of_lt hch)).mpr hj
  rw [← read_channelsAt_data hm hch hj, ← read_channelsAt_written hm hC hc hlen hch (.inr ⟨rfl, Nat.lt_succ_self j⟩)]
  exact (Memory.read_write (channelAt_wf (channelsMem_wf hm)) _ _ _).trans (if_pos rfl)

end Channels

/-! ### The position word -/

section PositionWord
variable {m g : Memory} {n x : Nat}

/-- `Mem` with `n` as the position word (20_memory.md R68). -/
def withPosition (n : Nat) (m : Memory) : Memory := memWrite32 m vmPosWord (BitVec.ofNat 32 n)

theorem withPosition_wf (hm : m.wf = true) : (withPosition n m).wf = true := memWrite32_wf hm _ _

theorem memRead32_congr {a : Word} (h : ∀ i < 4, g.read ((a.toNat + i) % vmMemSize) = m.read ((a.toNat + i) % vmMemSize)) :
    memRead32 g a = memRead32 m a := by
  rw [memRead32_eq, memRead32_eq, h 3 (by decide), h 2 (by decide), h 1 (by decide), h 0 (by decide)]

/-- The words of the result stand above every output (20_memory.md R68). -/
theorem not_mem_touched_resultWord {a : Word} (ha : a = vmSizeWord ∨ a = vmPosWord) (hx : x < 0x3C000) :
    x ∉ touched false a := fun h => by
  have hsize : ∀ y ∈ touched false vmSizeWord, 0x3C000 ≤ y := by decide
  have hpos : ∀ y ∈ touched false vmPosWord, 0x3C000 ≤ y := by decide
  obtain rfl | rfl := ha
  · exact Nat.not_le_of_lt hx (hsize x h)
  · exact Nat.not_le_of_lt hx (hpos x h)

theorem read_withPosition (hm : m.wf = true) (hx : x < 0x3C000) : (withPosition n m).read x = m.read x :=
  memWrite32_read_untouched hm (not_mem_touched_resultWord (.inr rfl) hx)

/-- A `Mem` that is one with the position word outside the output has that word, and every other byte there as before. -/
theorem position_and_frame (hm : m.wf = true) (hn : n < 0x1E000)
    (h : ∀ x, x < n ∨ 2 * n ≤ x → g.read x = (withPosition n m).read x) :
    memRead32 g vmPosWord = BitVec.ofNat 32 n ∧
      ∀ x, x < n ∨ 2 * n ≤ x → x ∉ touched false vmPosWord → g.read x = m.read x := by
  refine ⟨?_, fun x hx hout => (h x hx).trans (memWrite32_read_untouched hm hout)⟩
  have hpos : ∀ i < 4, 0x3C000 ≤ (vmPosWord.toNat + i) % vmMemSize := by decide
  rw [memRead32_congr (m := withPosition n m) fun i hi => h _ (.inr (by have := hpos i hi; omega))]
  exact memRead32_memWrite32_self hm _ _

end PositionWord

end Sys2Proof.Machine
end

section
/-! DELTA and UPCASE (47_fvm_control.md R395, R398): DELTA as a step of the channels, UPCASE as a store of the restored
bytes. -/

namespace Sys2Proof.Machine

variable {n ch c j src dst fuel : Nat} {m : Memory} {x : Byte}

theorem ofNat_toNat_self {w : Nat} (v : BitVec w) : BitVec.ofNat w v.toNat = v := by
  rw [BitVec.ofNat_toNat, BitVec.setWidth_eq]

/-! ### DELTA -/

/-- The predictor of DELTA is the byte before; the data byte is taken from it (R395). -/
def deltaNext (_ : Memory) (_ : Nat) (prev b : Byte) : Byte × Byte := (prev - b, prev - b)

theorem deltaChannel_eq (i : Nat) (prev : Byte) (r : Memory × Nat) :
    deltaChannel n ch fuel (n + i) prev r = channelLoop deltaNext n ch fuel i prev r := by
  induction fuel generalizing i prev r with
  | zero => rfl
  | succ fuel ih =>
    rw [deltaChannel, channelLoop, if_congr (show n + i < 2 * n ↔ i < n by omega) rfl rfl, Nat.add_assoc, ih]
    rfl

theorem deltaTransform_eq (hn : n < 0x1E000) :
    deltaTransform n ch m = channelsMem deltaNext n ch 0 (withPosition n m) (min ch n) := by
  rw [deltaTransform, if_neg (Nat.not_le_of_lt hn)]
  simp only [deltaChannel_eq]
  exact congrArg Prod.fst (channelLoop_foldl (Nat.min_le_left ch n))

/-- The predictor before byte `j` is minus the sum of the channel's data bytes before it. -/
theorem channelsAt_delta (hm : m.wf = true) (hc : c < ch) (hj : j ≤ channelLen n ch c) :
    (channelsAt deltaNext n ch 0 m c j).1 =
      0 - ((List.range j).map fun t => m.read (channelStart n ch c + t)).sum := by
  induction j with
  | zero => exact (sub_zero 0).symm
  | succ j ih =>
    rw [channelsAt_succ hm hc ((lt_channelLen (Nat.zero_lt_of_lt hc)).mp hj), deltaNext, ih (Nat.le_of_lt hj),
      List.range_succ, List.map_append, List.sum_append, List.map_singleton, List.sum_singleton]
    exact sub_sub 0 _ _

/-- Byte `j` of channel `c` after DELTA (R395). -/
theorem read_deltaTransform (hm : m.wf = true) (hn : n < 0x1E000) (hc : c < ch) (hj : c + j * ch < n) :
    (deltaTransform n ch m).read (n + c + j * ch) =
      0 - ((List.range (j + 1)).map fun t => m.read (channelStart n ch c + t)).sum := by
  have hp := withPosition_wf (n := n) hm
  have hdata : ∀ t ∈ List.range (j + 1),
      m.read (channelStart n ch c + t) = (withPosition n m).read (channelStart n ch c + t) := fun t ht => by
    have hle : t * ch ≤ j * ch := Nat.mul_le_mul_right ch (Nat.le_of_lt_succ (List.mem_range.mp ht))
    have hlt := channelStart_add_lt hc (n := n) (j := t) (by omega)
    exact (read_withPosition hm (by omega)).symm
  rw [deltaTransform_eq hn, Nat.add_assoc, read_output hp (Nat.min_le_left ch n) (Nat.lt_min.mpr ⟨hc, by omega⟩) hj,
    List.map_congr_left hdata, ← channelsAt_delta hp hc ((lt_channelLen (Nat.zero_lt_of_lt hc)).mpr hj),
    channelsAt_succ hp hc hj]
  rfl

/-- With no channel DELTA writes the position word alone (R395). -/
theorem read_deltaTransform_zero (hm : m.wf = true) (hn : n < 0x1E000) {y : Nat} (hy : y ∉ touched false vmPosWord) :
    (deltaTransform n 0 m).read y = m.read y := by
  rw [deltaTransform_eq hn, Nat.zero_min]
  exact memWrite32_read_untouched hm hy

/-! ### UPCASE -/

theorem upcaseBytes_plain (x : Byte) {b : Byte} (hb : b ≠ 2) (l : List Byte) :
    upcaseBytes x (b :: l) = b :: upcaseBytes x l := by
  cases l with
  | nil => exact congrArg (fun b => [b]) (if_neg hb)
  | cons c l => rw [upcaseBytes, if_neg hb]

theorem length_upcaseBytes_le (x : Byte) (l : List Byte) : (upcaseBytes x l).length ≤ l.length := by
  fun_induction upcaseBytes x l with
  | case1 | case2 => exact Nat.le_refl _
  | case3 c l ih => exact Nat.succ_le_succ (ih.trans (Nat.le_succ _))
  | case4 b c l hb ih => exact Nat.succ_le_succ ih

theorem upcaseBytes_ne_nil (x b : Byte) (l : List Byte) : upcaseBytes x (b :: l) ≠ [] := by
  cases l with
  | nil => simp [upcaseBytes]
  | cons c l =>
    rw [upcaseBytes]
    split <;> exact List.cons_ne_nil _ _

theorem upcaseLoop_end (hs : n ≤ src) : upcaseLoop n fuel src dst m = (m, dst) := by
  cases fuel with
  | zero => rfl
  | succ fuel => rw [upcaseLoop, if_neg (Nat.not_lt_of_le hs)]

/-- One round of the loop makes one output byte, of one data byte or of an escape and the byte behind it. The byte behind the
data matters where the last data byte is an escape, and is then read from `Mem` (R398). -/
theorem upcase_round (hs : src < n) : ∃ o src', src < src' ∧
    (∀ fuel dst, upcaseLoop n (fuel + 1) src dst m = upcaseLoop n fuel src' (dst + 1) (m.write dst o)) ∧
    ∀ x, (src + 1 = n → x = m.read n) →
      upcaseBytes x (m.readRange src (n - src)) = o :: upcaseBytes x (m.readRange src' (n - src')) := by
  obtain ⟨k, hk⟩ : ∃ k, n - src = k + 1 := ⟨n - src - 1, by omega⟩
  by_cases hb : m.read src = 2
  · refine ⟨restoreCase (m.read (src + 1)), src + 2, by omega, fun fuel dst => ?_, fun x hx => ?_⟩
    · simp only [upcaseLoop, if_pos hs, if_pos hb]
      congr 2
      unfold restoreCase
      split
      · assumption
      · rfl
    · rw [hk, Memory.readRange, hb]
      cases k with
      | zero =>
        have hlast : src + 1 = n := by omega
        rw [hx hlast, ← hlast, Nat.sub_eq_zero_of_le (by omega)]
        rfl
      | succ k =>
        rw [Memory.readRange, upcaseBytes, if_pos rfl, show n - (src + 2) = k by omega]
  · refine ⟨m.read src, src + 1, Nat.lt_succ_self src, fun fuel dst => ?_, fun x _ => ?_⟩
    · simp only [upcaseLoop, if_pos hs, if_neg hb]
    · rw [hk, Memory.readRange, upcaseBytes_plain x hb, show n - (src + 1) = k by omega]

theorem Memory.readRange_write {a k p : Nat} (hm : m.wf = true) (v : Byte) (h : ∀ y, a ≤ y → y < a + k → y ≠ p) :
    (m.write p v).readRange a k = m.readRange a k :=
  Memory.readRange_congr fun y hay hya => by rw [Memory.read_write hm, if_neg (h y hay hya)]

/-- `Mem` with a byte string stored at `d`, and the end of the byte string. -/
def stored (m : Memory) (d : Nat) (bs : List Byte) : Memory × Nat := (m.writeRange d bs, d + bs.length)

theorem stored_cons (m : Memory) (d : Nat) (o : Byte) (bs : List Byte) :
    stored (m.write d o) (d + 1) bs = stored m d (o :: bs) := by
  rw [stored, stored, List.length_cons, Nat.add_right_comm]
  rfl

/-- The loop behind its first output byte, the byte behind the data: the restored bytes are stored from `dst` on. -/
theorem upcaseLoop_eq (hm : m.wf = true) (hdst : n < dst) (hfuel : n ≤ src + fuel) :
    upcaseLoop n fuel src dst m = stored m dst (upcaseBytes (m.read n) (m.readRange src (n - src))) := by
  induction fuel generalizing src dst m with
  | zero =>
    rw [Nat.add_zero] at hfuel
    rw [upcaseLoop_end hfuel, Nat.sub_eq_zero_of_le hfuel]
    rfl
  | succ fuel ih =>
    by_cases hs : src < n
    · obtain ⟨o, src', hlt, hloop, hbytes⟩ := upcase_round (m := m) hs
      rw [hloop, ih (Memory.wf_write hm dst o) (Nat.lt_succ_of_lt hdst) (by omega), Memory.readRange_write hm o (by omega),
        Memory.read_write hm, if_neg (Nat.ne_of_lt hdst), hbytes (m.read n) fun _ => rfl, stored_cons]
    · rw [upcaseLoop_end (Nat.le_of_not_lt hs), Nat.sub_eq_zero_of_le (Nat.le_of_not_lt hs)]
      rfl

/-- The byte behind the data once the loop is behind its first output byte `o`. -/
theorem upcaseBytes_behind (o z : Byte) (l : List Byte) :
    upcaseBytes (if 1 < (o :: upcaseBytes 0 l).length then o else z) l = upcaseBytes o l := by
  cases l with
  | nil => rfl
  | cons b l =>
    exact congrArg (upcaseBytes · _) (if_pos (Nat.succ_lt_succ (List.length_pos_iff.mpr (upcaseBytes_ne_nil 0 b l))))

/-- The output of UPCASE: the byte behind the data is the first output byte where there is one before the last (R398). -/
def upcaseOutput (m : Memory) (n : Nat) : List Byte :=
  let first := upcaseBytes 0 (m.readRange 0 n)
  upcaseBytes (if 1 < first.length then first.getD 0 0 else m.read n) (m.readRange 0 n)

theorem length_upcaseOutput_le (m : Memory) (n : Nat) : (upcaseOutput m n).length ≤ n :=
  (length_upcaseBytes_le _ _).trans (Memory.length_readRange m 0 n).le

theorem upcaseLoop_start (hm : m.wf = true) (n : Nat) : upcaseLoop n n 0 n m = stored m n (upcaseOutput m n) := by
  cases n with
  | zero => rfl
  | succ k =>
    obtain ⟨o, src', hlt, hloop, hbytes⟩ := upcase_round (n := k + 1) (m := m) (Nat.succ_pos k)
    have hout : upcaseOutput m (k + 1) = o :: upcaseBytes o (m.readRange src' (k + 1 - src')) := by
      rw [Nat.sub_zero] at hbytes
      by_cases hk : k = 0
      · subst hk
        have hrest : 1 - src' = 0 := by omega
        have hfirst : (upcaseBytes 0 (m.readRange 0 1)).length = 1 := rfl
        rw [upcaseOutput, hfirst, if_neg (Nat.lt_irrefl 1), hbytes _ fun _ => rfl, hrest]
        rfl
      · rw [upcaseOutput, hbytes 0 fun h => by omega, hbytes _ fun h => by omega]
        exact congrArg _ (upcaseBytes_behind o _ _)
    rw [hloop, upcaseLoop_eq (Memory.wf_write hm _ o) (Nat.lt_succ_self _) (by omega),
      Memory.readRange_write hm o (by omega), Memory.read_write hm, if_pos rfl, hout]
    exact stored_cons m (k + 1) o _

theorem upcaseTransform_eq (hm : m.wf = true) (hn : n < 0x1E000) : upcaseTransform n m =
    withPosition n (memWrite32 (m.writeRange n (upcaseOutput m n)) vmSizeWord
      (BitVec.ofNat 32 (upcaseOutput m n).length)) := by
  simp only [upcaseTransform, if_neg (Nat.not_le_of_lt hn), upcaseLoop_start hm, stored, Nat.add_sub_cancel_left]
  rfl

theorem posWord_apart_sizeWord : WordsApart vmPosWord vmSizeWord := by
  unfold WordsApart
  decide

end Sys2Proof.Machine

open Sys2Proof Sys2Proof.Machine

/-- Settles O20: DELTA by its channels, UPCASE by the byte string that its loop stores. -/
theorem deltaAndUpcaseTransformResults : Obligations.DeltaAndUpcaseTransformResults := by
  unfold Obligations.DeltaAndUpcaseTransformResults
  refine ⟨fun f hm => ?_, fun f hm => ?_⟩
  · intro n ch g
    refine ⟨fun h => congrArg f.setMem (if_pos h), fun hn => ?_⟩
    have hg : g.mem = deltaTransform n ch f.mem := rfl
    obtain ⟨hpos, hframe⟩ := position_and_frame (g := g.mem) hm hn fun x hx => by
      rw [hg, deltaTransform_eq hn]
      exact read_channelsMem_outside (withPosition_wf hm) (Nat.min_le_left ch n) hx
    refine ⟨hpos.trans (ofNat_toNat_self _), fun c j => read_deltaTransform hm hn, fun x hx hout => ?_⟩
    obtain hx | hx | hx := hx
    · exact hframe x (.inl hx) hout
    · exact hframe x (.inr hx) hout
    · rw [hg, hx]
      exact read_deltaTransform_zero hm hn hout
  · intro n g data first out
    refine ⟨fun h => congrArg f.setMem (if_pos h), fun hn => ?_⟩
    have hg : g.mem = _ := upcaseTransform_eq hm hn
    have hlen : out.length ≤ n := length_upcaseOutput_le f.mem n
    have hwf := Memory.wf_writeRange hm n out
    have hwf' := memWrite32_wf hwf vmSizeWord (BitVec.ofNat 32 out.length)
    rw [hg]
    refine ⟨?_, ?_, fun i hi => ?_, fun x hx hsize hpos => ?_⟩
    · exact (memRead32_memWrite32_apart hwf' posWord_apart_sizeWord).trans (memRead32_memWrite32_self hwf _ _)
    · exact (memRead32_memWrite32_self hwf' _ _).trans (ofNat_toNat_self _)
    · have hlt : n + i < 0x3C000 := by omega
      exact ((read_withPosition hwf' hlt).trans (memWrite32_read_untouched hwf (not_mem_touched_resultWord (.inl rfl) hlt))).trans
        (Memory.read_writeRange_mem hm n i hi)
    · exact ((memWrite32_read_untouched hwf' hpos).trans (memWrite32_read_untouched hwf hsize)).trans
        (Memory.read_writeRange_other hm hx)
end

section
/-! RGB (47_fvm_control.md R396): the three channels before green is added, then the pass that adds it. -/

namespace Sys2Proof.Machine

variable {n width c j i k fuel : Nat} {m : Memory} {prev : Byte}

/-! ### The three channels -/

/-- The nearest of the three to `left + up - upperLeft`, by the differences written out (R396). -/
theorem rgbPredict_eq (left up upperLeft : Byte) : rgbPredict left up upperLeft = nearest left up upperLeft := by
  have ha : (left.toNat + up.toNat - upperLeft.toNat - left.toNat : Int) = up.toNat - upperLeft.toNat := by ring
  have hb : (left.toNat + up.toNat - upperLeft.toNat - up.toNat : Int) = left.toNat - upperLeft.toNat := by ring
  have hc : (left.toNat + up.toNat - upperLeft.toNat - upperLeft.toNat : Int) =
      left.toNat + up.toNat - 2 * upperLeft.toNat := by ring
  simp only [rgbPredict, nearest, ha, hb, hc, le_min_iff]

/-- The output byte of RGB, which is also the predictor of the next (R396). -/
def rgbNext (n width : Nat) (m : Memory) (i : Nat) (prev b : Byte) : Byte × Byte :=
  let o := (if width + 3 ≤ i then rgbPredict prev (m.read (n + (i - width))) (m.read (n + (i - width - 3))) else prev) - b
  (o, o)

theorem rgbChannel_eq (i : Nat) (prev : Byte) (r : Memory × Nat) :
    rgbChannel n width fuel i prev r = channelLoop (rgbNext n width) n 3 fuel i prev r := by
  induction fuel generalizing i prev r with
  | zero => rfl
  | succ fuel ih =>
    rw [rgbChannel, channelLoop, ih]
    rfl

/-- `Mem` behind the three channels. -/
def rgbMem (n width : Nat) (m : Memory) : Memory := channelsMem (rgbNext n width) n 3 0 (withPosition n m) 3

theorem rgbMem_wf (hm : m.wf = true) : (rgbMem n width m).wf = true := channelsMem_wf (withPosition_wf hm)

theorem rgbTransform_eq {r0 posr : Word} (hn : n < 0x1E000) (h3 : 3 ≤ n) (hw : (r0 - 3).toNat ≤ n) (hp : posr.toNat ≤ 2) :
    rgbTransform n r0 posr m = rgbGreen n n posr.toNat (rgbMem n (r0 - 3).toNat m) := by
  simp only [rgbTransform, rgbChannel_eq]
  rw [if_neg (by omega)]
  exact congrArg (fun r : Memory × Nat => rgbGreen n n posr.toNat r.1) (channelLoop_foldl (Nat.le_refl 3))

/-- The predictor before a byte is the byte before it in its channel. -/
theorem channelsAt_rgb (hm : m.wf = true) (hc : c < 3) (hj : c + j * 3 < n) :
    (channelsAt (rgbNext n width) n 3 0 m c j).1 =
      if c + j * 3 < 3 then 0 else (channelsMem (rgbNext n width) n 3 0 m 3).read (n + (c + j * 3 - 3)) := by
  cases j with
  | zero => exact (if_pos (by omega)).symm
  | succ j =>
    have hsub : c + (j + 1) * 3 - 3 = c + j * 3 := by omega
    rw [channelsAt_succ hm hc (by omega), if_neg (by omega), hsub, read_output hm (Nat.le_refl 3) hc (by omega)]
    rfl

/-- What byte `k` of the output reads as before byte `i` is made: its own in the end, or that of `Mem` before. -/
theorem read_channelsAt_rgb (hm : m.wf = true) (hi : i < n) (k : Nat) :
    (channelsAt (rgbNext n width) n 3 0 m (i % 3) (i / 3)).2.read (n + k) =
      if k % 3 < i % 3 ∨ (k % 3 = i % 3 ∧ k < i) then (channelsMem (rgbNext n width) n 3 0 m 3).read (n + k)
      else m.read (n + k) := by
  have hk3 : k % 3 + k / 3 * 3 = k := Nat.mod_add_div' k 3
  have hk := Nat.mod_lt k (by decide : 0 < 3)
  have hi3 := Nat.mod_lt i (by decide : 0 < 3)
  split
  · have hread := read_channelsAt_written (n := n) (next := rgbNext n width) (a := 0) (j := i / 3) hm (Nat.le_refl 3) hi3
      (Nat.le_of_lt ((lt_channelLen (by decide)).mpr (by omega))) (i := k / 3) hk (by omega)
    rwa [hk3] at hread
  · have hread := read_channelsAt_unwritten (n := n) (next := rgbNext n width) (a := 0) (j := i / 3) hm hi3 (i := k / 3) hk (by omega)
    rwa [hk3] at hread

/-- The bytes of the three channels (R396), `d` being all of them. -/
theorem read_rgbMem (hm : m.wf = true) (hn : n < 0x1E000) (hi : i < n) {d : Nat → Byte}
    (hd : ∀ k < n, (rgbMem n width m).read (n + k) = d k) :
    let dst := fun j => if j % 3 < i % 3 ∨ (j % 3 = i % 3 ∧ j < i) then d j else m.read (n + j)
    let prev := if i < 3 then 0 else d (i - 3)
    d i = (if i < width + 3 then prev else nearest prev (dst (i - width)) (dst (i - width - 3))) -
      m.read (channelStart n 3 (i % 3) + i / 3) := by
  intro dst prev
  have hp := withPosition_wf (n := n) hm
  have hi3 : i % 3 + i / 3 * 3 = i := Nat.mod_add_div' i 3
  have hc := Nat.mod_lt i (by decide : 0 < 3)
  have hj : i % 3 + i / 3 * 3 < n := by omega
  have hdata := channelStart_add_lt hc hj
  have hdst (k : Nat) (hk : k < n) :
      (channelsAt (rgbNext n width) n 3 0 (withPosition n m) (i % 3) (i / 3)).2.read (n + k) = dst k := by
    rw [read_channelsAt_rgb hp hi k, read_withPosition hm (by omega)]
    exact if_congr .rfl (hd k hk) rfl
  have hprev : (channelsAt (rgbNext n width) n 3 0 (withPosition n m) (i % 3) (i / 3)).1 = prev := by
    rw [channelsAt_rgb hp hc hj, hi3]
    exact ite_congr rfl (fun _ => rfl) fun _ => hd _ (by omega)
  have hout := read_output (next := rgbNext n width) (a := 0) hp (Nat.le_refl 3) hc hj
  rw [hi3, hprev, read_withPosition hm (by omega)] at hout
  rw [← hd i hi, rgbMem, hout, rgbNext]
  dsimp only
  by_cases hrow : i < width + 3
  · rw [if_pos hrow, if_neg (Nat.not_le_of_lt hrow)]
  · rw [if_neg hrow, if_pos (Nat.le_of_not_lt hrow), hdst _ (by omega), hdst _ (by omega), rgbPredict_eq]

/-! ### Green -/

/-- What green adds to the byte at `n + k`, for the pixels from `i` on (R396). -/
def greenOf (m : Memory) (n i k : Nat) : Byte :=
  if i ≤ k ∧ (k - i) % 3 = 0 ∧ k + 2 < n then m.read (n + (k + 1))
  else if i ≤ k ∧ (k - i) % 3 = 2 then m.read (n + (k - 1)) else 0

/-- One round of the pass: green added to the bytes on its two sides. -/
def greenRound (n i : Nat) (m : Memory) : Memory :=
  let m' := m.write (n + i) (m.read (n + i) + m.read (n + i + 1))
  m'.write (n + i + 2) (m'.read (n + i + 2) + m.read (n + i + 1))

theorem rgbGreen_round (hi : i < n - 2) :
    rgbGreen n (fuel + 1) i m = rgbGreen n fuel (i + 3) (greenRound n i m) := if_pos hi

theorem rgbGreen_end (hi : ¬ i < n - 2) : rgbGreen n fuel i m = m := by
  cases fuel with
  | zero => rfl
  | succ fuel => rw [rgbGreen, if_neg hi]

theorem greenRound_wf (hm : m.wf = true) : (greenRound n i m).wf = true := Memory.wf_write (Memory.wf_write hm _ _) _ _

theorem read_greenRound (hm : m.wf = true) (x : Nat) : (greenRound n i m).read x =
    m.read x + if x = n + i ∨ x = n + i + 2 then m.read (n + i + 1) else 0 := by
  rw [greenRound, Memory.read_write (Memory.wf_write hm _ _), Memory.read_write hm, Memory.read_write hm,
    if_neg (by omega : ¬ n + i + 2 = n + i)]
  by_cases h2 : x = n + i + 2
  · rw [if_pos h2, if_pos (.inr h2), h2]
  · by_cases h0 : x = n + i
    · rw [if_neg h2, if_pos h0, if_pos (.inl h0), h0]
    · rw [if_neg h2, if_neg h0, if_neg (by omega)]
      exact (add_zero _).symm

/-- The pixel of the round at `i`: what its green adds, and nothing by the later rounds. -/
theorem greenOf_pixel (hi : i < n - 2) (hk : k < i + 3) (m' : Memory) :
    greenOf m n i k = (if n + k = n + i ∨ n + k = n + i + 2 then m.read (n + i + 1) else 0) ∧
      greenOf m' n (i + 3) k = 0 := by
  refine ⟨?_, by rw [greenOf, if_neg (by omega), if_neg (by omega)]⟩
  unfold greenOf
  obtain rfl | rfl | hnone : k = i ∨ k = i + 2 ∨ (k < i ∨ k = i + 1) := by omega
  · rw [if_pos (by omega), if_pos (.inl rfl)]
    rfl
  · rw [if_neg (by omega), if_pos (by omega), if_pos (.inr rfl)]
    rfl
  · rw [if_neg (by omega), if_neg (by omega), if_neg (by omega)]

theorem greenOf_later (hm : m.wf = true) (hk : i + 3 ≤ k) : greenOf (greenRound n i m) n (i + 3) k = greenOf m n i k := by
  have hread {y : Nat} (hy : i + 3 ≤ y) : (greenRound n i m).read (n + y) = m.read (n + y) := by
    rw [read_greenRound hm, if_neg (by omega), add_zero]
  unfold greenOf
  exact ite_congr (propext (by omega)) (fun _ => hread (by omega)) fun _ =>
    ite_congr (propext (by omega)) (fun _ => hread (by omega)) fun _ => rfl

theorem greenOf_end (hi : ¬ i < n - 2) (hk : k < n) : greenOf m n i k = 0 := by
  rw [greenOf, if_neg (by omega), if_neg (by omega)]

theorem read_rgbGreen (hm : m.wf = true) (hfuel : n ≤ i + fuel) (hk : k < n) :
    (rgbGreen n fuel i m).read (n + k) = m.read (n + k) + greenOf m n i k := by
  induction fuel generalizing i m with
  | zero => rw [rgbGreen_end (by omega), greenOf_end (by omega) hk, add_zero]
  | succ fuel ih =>
    by_cases hi : i < n - 2
    · rw [rgbGreen_round hi, ih (greenRound_wf hm) (by omega), read_greenRound hm]
      by_cases hlt : k < i + 3
      · obtain ⟨hpixel, hrest⟩ := greenOf_pixel (m := m) hi hlt (greenRound n i m)
        rw [hpixel, hrest, add_zero]
      · rw [greenOf_later hm (by omega), if_neg (by omega), add_zero]
    · rw [rgbGreen_end hi, greenOf_end hi hk, add_zero]

theorem read_rgbGreen_other (hm : m.wf = true) {x : Nat} (hx : x < n ∨ 2 * n ≤ x) :
    (rgbGreen n fuel i m).read x = m.read x := by
  induction fuel generalizing i m with
  | zero => rfl
  | succ fuel ih =>
    by_cases hi : i < n - 2
    · rw [rgbGreen_round hi, ih (greenRound_wf hm), read_greenRound hm, if_neg (by omega), add_zero]
    · rw [rgbGreen_end hi]

/-- RGB at the default of `NATIVE`, where its guard holds (R396). -/
theorem rgbTransform_result {r0 posr : Word} (hm : m.wf = true) (hn : n < 0x1E000) (h3 : 3 ≤ n)
    (hw : (r0 - 3).toNat ≤ n) (hp : posr.toNat ≤ 2) : memRead32 (rgbTransform n r0 posr m) vmPosWord = BitVec.ofNat 32 n ∧
      ∀ x, x < n ∨ 2 * n ≤ x → x ∉ touched false vmPosWord → (rgbTransform n r0 posr m).read x = m.read x := by
  refine position_and_frame hm hn fun x hx => ?_
  rw [rgbTransform_eq hn h3 hw hp, read_rgbGreen_other (rgbMem_wf hm) hx]
  exact read_channelsMem_outside (withPosition_wf hm) (Nat.le_refl 3) hx

end Sys2Proof.Machine
end

section
/-! AUDIO (47_fvm_control.md R397): one byte of a channel, and the channels. -/

namespace Sys2Proof.Machine

variable {n ch c j k fuel : Nat} {m : Memory} {a : AudioPredictor} {cur : Byte}

/-! ### Bytes and signed integers -/

theorem ofInt_sub_byte (x y : Int) : BitVec.ofInt 8 (x - y) = BitVec.ofInt 8 x - BitVec.ofInt 8 y := Int.cast_sub x y

theorem ofInt_mod_byte (x : Int) : BitVec.ofInt 8 (x % 256) = BitVec.ofInt 8 x := by
  apply BitVec.eq_of_toNat_eq
  rw [BitVec.toNat_ofInt, BitVec.toNat_ofInt]
  exact congrArg Int.toNat (Int.emod_emod_of_dvd x (dvd_refl 256))

theorem ofInt_toNat_byte (b : Byte) : BitVec.ofInt 8 b.toNat = b := by
  rw [BitVec.ofInt_natCast, ofNat_toNat_self]

/-! ### One byte -/

/-- The least index at which seven sums are least (R397). -/
theorem argMin_eq {l : List Nat} (hlen : l.length = 7) (hk : k < 7) (hle : ∀ i < 7, l.getD k 0 ≤ l.getD i 0)
    (hlt : ∀ i < k, l.getD k 0 < l.getD i 0) : argMin l = k := by
  have hget {i : Nat} (hi : i < l.length) : l.getD i 0 = l[i] := List.getD_eq_getElem l 0 hi
  rw [argMin, List.findIdx_eq (by omega)]
  refine ⟨?_, fun i hi => ?_⟩
  · rw [List.all_eq_true]
    intro y hy
    obtain ⟨i, hi, rfl⟩ := List.mem_iff_getElem.mp hy
    rw [decide_eq_true_iff, ← hget, ← hget]
    exact hle i (by omega)
  · rw [List.all_eq_false]
    refine ⟨l[k], List.getElem_mem _, fun h => ?_⟩
    rw [decide_eq_true_iff, ← hget, ← hget] at h
    exact Nat.not_le_of_lt (hlt i hi) h

/-- A weight after the adjustment for the index `k` (R397). -/
def audioWeight (k down up : Nat) (w : Int) : Int :=
  if k = down ∧ -16 ≤ w then w - 1 else if k = up ∧ w < 16 then w + 1 else w

/-- The adjustment raises or lowers the weight that the least sum names (R397). -/
theorem audioAdjust_eq (a : AudioPredictor) : audioAdjust a =
    { a with
      dif := List.replicate 7 0
      k1 := audioWeight (argMin a.dif) 1 2 a.k1
      k2 := audioWeight (argMin a.dif) 3 4 a.k2
      k3 := audioWeight (argMin a.dif) 5 6 a.k3 } := by
  unfold audioAdjust
  generalize argMin a.dif = k
  dsimp only
  split_ifs <;> simp [audioWeight, lowerWeight, raiseWeight, *]

/-- The output byte: prediction from the byte before and three weighted deltas, less the data byte (R397). -/
def audioOut (a : AudioPredictor) (cur : Byte) : Byte :=
  BitVec.ofInt 8 ((8 * a.prev + a.k1 * a.pdelta + a.k2 * (a.pdelta - a.d1) + a.k3 * a.d2) / 8) - cur

/-- The seven terms whose sizes are summed (R397). -/
def audioTerms (a : AudioPredictor) (cur : Byte) : List Int :=
  let big := 8 * cur.toInt
  [big, big - a.pdelta, big + a.pdelta, big - (a.pdelta - a.d1), big + (a.pdelta - a.d1), big - a.d2, big + a.d2]

/-- The seven sums behind a byte (R397). -/
def audioSums (a : AudioPredictor) (cur : Byte) : List Nat :=
  List.zipWith (· + ·) a.dif ((audioTerms a cur).map Int.natAbs)

theorem audioSums_eq (a : AudioPredictor) (cur : Byte) :
    audioSums a cur = List.zipWith (fun x y => x + y.natAbs) a.dif (audioTerms a cur) := List.zipWith_map_right

theorem length_audioSums (h : a.dif.length = 7) (cur : Byte) : (audioSums a cur).length = 7 := by
  rw [audioSums, List.length_zipWith, h]
  rfl

/-- The predictor behind a byte at which the weights stay. -/
def audioPlain (a : AudioPredictor) (cur : Byte) : AudioPredictor :=
  { prev := (audioOut a cur).toNat, pdelta := (audioOut a cur - BitVec.ofNat 8 a.prev).toInt
    d1 := a.pdelta, d2 := a.pdelta - a.d1, d3 := a.d2, k1 := a.k1, k2 := a.k2, k3 := a.k3
    dif := audioSums a cur, count := a.count + 1 }

/-- The predictor behind a byte at which the weights are adjusted. -/
def audioAdjusted (a : AudioPredictor) (cur : Byte) : AudioPredictor :=
  let k := argMin (audioSums a cur)
  { audioPlain a cur with
    dif := List.replicate 7 0
    k1 := audioWeight k 1 2 a.k1, k2 := audioWeight k 3 4 a.k2, k3 := audioWeight k 5 6 a.k3 }

/-- One byte of a channel; every 32nd adjusts the weights (R397). -/
theorem audioStep_eq (a : AudioPredictor) (cur : Byte) : audioStep a cur =
    (audioOut a cur, if a.count % 32 = 0 then audioAdjusted a cur else audioPlain a cur) := by
  have hcur : sext8 cur.toNat = cur.toInt := congrArg BitVec.toInt (ofInt_toNat_byte cur)
  have hout (x : Int) : BitVec.ofInt 8 (x % 256 - cur.toNat) = BitVec.ofInt 8 x - cur := by
    rw [ofInt_sub_byte, ofInt_mod_byte, ofInt_toNat_byte]
  have hdelta (o : Byte) : sext8 ((o.toNat : Int) - a.prev) = (o - BitVec.ofNat 8 a.prev).toInt := by
    rw [sext8, ofInt_sub_byte, ofInt_toNat_byte, BitVec.ofInt_natCast]
  simp only [audioStep, hcur, hout, hdelta]
  refine Prod.ext rfl ?_
  dsimp only
  split
  · rw [audioAdjust_eq]
    rfl
  · rfl

/-! ### The channels -/

/-- AUDIO's step as the step of a channel. -/
def audioNext (_ : Memory) (_ : Nat) (a : AudioPredictor) (cur : Byte) : Byte × AudioPredictor := audioStep a cur

theorem audioChannel_eq (i : Nat) (a : AudioPredictor) (r : Memory × Nat) :
    audioChannel n ch fuel i a r = channelLoop audioNext n ch fuel i a r := by
  induction fuel generalizing i a r with
  | zero => rfl
  | succ fuel ih =>
    rw [audioChannel, channelLoop, ih]
    rfl

theorem audioTransform_eq (hn : n < 0x1E000) (h1 : 1 ≤ ch) (h128 : ch ≤ 128) :
    audioTransform n ch m = channelsMem audioNext n ch audioStart (withPosition n m) ch := by
  simp only [audioTransform, audioChannel_eq]
  rw [if_neg (by omega)]
  exact congrArg Prod.fst (channelLoop_foldl (Nat.le_refl ch))

/-- AUDIO at the default of `NATIVE`, where its guard holds (R397). -/
theorem audioTransform_result (hm : m.wf = true) (hn : n < 0x1E000) (h1 : 1 ≤ ch) (h128 : ch ≤ 128) :
    memRead32 (audioTransform n ch m) vmPosWord = BitVec.ofNat 32 n ∧
      ∀ x, x < n ∨ 2 * n ≤ x → x ∉ touched false vmPosWord → (audioTransform n ch m).read x = m.read x := by
  refine position_and_frame hm hn fun x hx => ?_
  rw [audioTransform_eq hn h1 h128]
  exact read_channelsMem_outside (withPosition_wf hm) (Nat.le_refl ch) hx

/-- The predictor of channel `c` before its byte `j`. -/
def audioAt (n ch : Nat) (m : Memory) (c j : Nat) : AudioPredictor :=
  (channelsAt audioNext n ch audioStart (withPosition n m) c j).1

theorem audioAt_succ (hm : m.wf = true) (hn : n < 0x1E000) (hc : c < ch) (hj : c + j * ch < n) :
    audioAt n ch m c (j + 1) = (audioStep (audioAt n ch m c j) (m.read (channelStart n ch c + j))).2 := by
  have hdata := channelStart_add_lt hc hj
  rw [audioAt, channelsAt_succ (withPosition_wf hm) hc hj, read_withPosition hm (by omega)]
  rfl

theorem read_audioTransform (hm : m.wf = true) (hn : n < 0x1E000) (h128 : ch ≤ 128) (hc : c < ch) (hj : c + j * ch < n) :
    (audioTransform n ch m).read (n + c + j * ch) =
      (audioStep (audioAt n ch m c j) (m.read (channelStart n ch c + j))).1 := by
  have hdata := channelStart_add_lt hc hj
  rw [audioTransform_eq hn (by omega) h128, Nat.add_assoc, read_output (withPosition_wf hm) (Nat.le_refl ch) hc hj,
    read_withPosition hm (by omega)]
  rfl

/-- The rule for byte `j` of a channel: from the predictor `a` and the data byte `cur` the output byte `out` and the predictor
`b` (R397). -/
def AudioRule (j : Nat) (a b : AudioPredictor) (cur out : Byte) : Prop :=
  let big := 8 * cur.toInt
  let sums := List.zipWith (fun (x : Nat) (y : Int) => x + y.natAbs) a.dif
    [big, big - b.d1, big + b.d1, big - b.d2, big + b.d2, big - b.d3, big + b.d3]
  out = BitVec.ofInt 8 ((8 * a.prev + a.k1 * b.d1 + a.k2 * b.d2 + a.k3 * b.d3) / 8) - cur ∧
  b.d1 = a.pdelta ∧ b.d2 = a.pdelta - a.d1 ∧ b.d3 = a.d2 ∧
  b.prev = out.toNat ∧ b.pdelta = (out - BitVec.ofNat 8 a.prev).toInt ∧
  (j % 32 ≠ 0 → b.dif = sums ∧ b.k1 = a.k1 ∧ b.k2 = a.k2 ∧ b.k3 = a.k3) ∧
  (j % 32 = 0 → b.dif = List.replicate 7 0 ∧
    ∀ k < 7, (∀ i < 7, sums.getD k 0 ≤ sums.getD i 0) → (∀ i < k, sums.getD k 0 < sums.getD i 0) →
      b.k1 = audioWeight k 1 2 a.k1 ∧ b.k2 = audioWeight k 3 4 a.k2 ∧ b.k3 = audioWeight k 5 6 a.k3)

theorem audioStep_rule (h : a.dif.length = 7) (cur : Byte) :
    AudioRule a.count a (audioStep a cur).2 cur (audioStep a cur).1 := by
  rw [audioStep_eq]
  dsimp only
  split
  · refine ⟨rfl, rfl, rfl, rfl, rfl, rfl, fun hne => absurd ‹_› hne, fun _ => ⟨rfl, fun k hk hle hlt => ?_⟩⟩
    have hmin : argMin (audioSums a cur) = k := by
      rw [audioSums_eq]
      exact argMin_eq (audioSums_eq a cur ▸ length_audioSums h cur) hk hle hlt
    rw [← hmin]
    exact ⟨rfl, rfl, rfl⟩
  · exact ⟨rfl, rfl, rfl, rfl, rfl, rfl, fun _ => ⟨audioSums_eq a cur, rfl, rfl, rfl⟩, fun hz => absurd hz ‹_›⟩

theorem audioStep_count (a : AudioPredictor) (cur : Byte) : (audioStep a cur).2.count = a.count + 1 := rfl

theorem audioStep_length_dif (h : a.dif.length = 7) (cur : Byte) : (audioStep a cur).2.dif.length = 7 := by
  rw [audioStep_eq]
  dsimp only
  split
  · rfl
  · exact length_audioSums h cur

/-- A predictor counts the bytes of its channel and holds seven sums. -/
theorem audioAt_shape (hm : m.wf = true) (hn : n < 0x1E000) (hc : c < ch) (hj : j ≤ channelLen n ch c) :
    (audioAt n ch m c j).count = j ∧ (audioAt n ch m c j).dif.length = 7 := by
  induction j with
  | zero => exact ⟨rfl, rfl⟩
  | succ j ih =>
    obtain ⟨hcount, hlen⟩ := ih (Nat.le_of_lt hj)
    rw [audioAt_succ hm hn hc ((lt_channelLen (Nat.zero_lt_of_lt hc)).mp hj), audioStep_count, hcount]
    exact ⟨rfl, audioStep_length_dif hlen _⟩

end Sys2Proof.Machine

open Sys2Proof Sys2Proof.Machine

/-- Settles O21: RGB by its three channels and the pass of green, AUDIO by the step of its predictors. -/
theorem rgbAndAudioTransformResults : Obligations.RgbAndAudioTransformResults := by
  unfold Obligations.RgbAndAudioTransformResults
  refine ⟨fun f hm => ?_, fun f hm => ?_⟩
  · intro n width posr g
    refine ⟨fun h => congrArg f.setMem (if_pos h), fun hn h3 hw hp => ?_⟩
    have hg : g.mem = rgbTransform n (f.reg 0) (f.reg 1) f.mem := rfl
    obtain ⟨hpos, hframe⟩ := rgbTransform_result hm hn h3 hw hp
    refine ⟨hpos.trans (ofNat_toNat_self _), hframe, fun k => (rgbMem n width f.mem).read (n + k),
      fun i hi => read_rgbMem hm hn hi fun _ _ => rfl, fun i hi => ?_⟩
    rw [hg, rgbTransform_eq hn h3 hw hp]
    exact read_rgbGreen (rgbMem_wf hm) (Nat.le_add_left n _) hi
  · intro n ch g
    refine ⟨fun h => congrArg f.setMem (if_pos h), fun hn h1 h128 => ?_⟩
    obtain ⟨hpos, hframe⟩ := audioTransform_result hm hn h1 h128
    refine ⟨hpos.trans (ofNat_toNat_self _), hframe, audioAt n ch f.mem, fun c hc => ⟨⟨rfl, rfl, rfl⟩, fun j hj => ?_⟩⟩
    obtain ⟨hcount, hlen⟩ := audioAt_shape hm hn hc (Nat.le_of_lt ((lt_channelLen h1).mpr hj))
    have hrule := audioStep_rule hlen (f.mem.read (channelStart n ch c + j))
    rw [hcount, ← audioAt_succ hm hn hc hj, ← read_audioTransform hm hn h128 hc hj] at hrule
    exact hrule
end

section
/-! What ends in no fault of the model (entry 16): the calculus, and the operations that end in none from any state,
which are all but those that start a filter or run one. -/

namespace Sys2Proof.Machine

variable {α β : Type} {s : State} {m : Op α}

/-- From `s` the operation does not end in a fault: it succeeds, raises a decode error, or is refused. -/
def FaultFree (m : Op α) (s : State) : Prop := ∀ r t, m s ≠ .error (.fault r) t

/-- The operation ends in no fault from any state. -/
def NeverFaults (m : Op α) : Prop := ∀ s, FaultFree m s

/-! ### The calculus -/

theorem FaultFree.of_ok {a : α} {t : State} (h : m s = .ok a t) : FaultFree m s := fun r u e => by
  rw [h] at e
  cases e

theorem FaultFree.of_raise {k : ErrKind} {t : State} (h : m s = .error (.raise k) t) : FaultFree m s := fun r u e => by
  rw [h] at e
  cases e

/-- What has the outcome of an operation that does not fault does not fault. -/
theorem FaultFree.congr {n : Op α} {t : State} (h : m s = n t) (hn : FaultFree n t) : FaultFree m s := fun r u e =>
  hn r u (h ▸ e)

/-- A sequence does not fault where its first part does not, nor its second on what the first leaves. -/
theorem FaultFree.bind {k : α → Op β} (hm : FaultFree m s) (hk : ∀ a t, m s = .ok a t → FaultFree (k a) t) :
    FaultFree (m >>= k) s := by
  intro r u h
  obtain hfirst | ⟨a, t, hok, hsecond⟩ := op_bind_eq_error h
  · exact hm r u hfirst
  · exact hk a t hok r u hsecond

/-- An operation that does not fault has no fault for its outcome. -/
theorem FaultFree.runOp {m : Op Unit} (h : FaultFree m s) (r : Fault) : runOp m s ≠ .fault r := by
  intro he
  unfold Machine.runOp at he
  split at he <;> cases he
  exact h _ _ ‹_›

namespace NeverFaults

theorem pure (a : α) : NeverFaults (Pure.pure a : Op α) := fun _ => .of_ok rfl
theorem refuse (r : Refusal) : NeverFaults (throw (.refuse r) : Op α) := fun _ _ _ h => by cases h
theorem raise (k : ErrKind) : NeverFaults (opRaise k : Op α) := fun _ => .of_raise rfl
theorem modify (f : State → State) : NeverFaults (modify f : Op PUnit) := fun _ => .of_ok rfl
theorem set (t : State) : NeverFaults (set t : Op PUnit) := fun _ => .of_ok rfl

theorem bind {k : α → Op β} (hm : NeverFaults m) (hk : ∀ a, NeverFaults (k a)) : NeverFaults (m >>= k) :=
  fun s => (hm s).bind fun a t _ => hk a t

/-- An operation that begins by reading the state. -/
theorem get {k : State → Op β} (hk : ∀ t, NeverFaults (k t)) : NeverFaults (get >>= k) := fun s => hk s s

theorem ite {c : Prop} [Decidable c] {n : Op α} (hm : NeverFaults m) (hn : NeverFaults n) :
    NeverFaults (if c then m else n) := by
  split
  · exact hm
  · exact hn

/-! ### Cursor, tables, window -/

theorem bcRead (n : Nat) : NeverFaults (bcRead n) :=
  get fun _ => ite (bind (set _) fun _ => pure _) (raise _)

theorem bcReadBytes (n : Nat) : NeverFaults (bcReadBytes n) :=
  get fun _ => ite (bind (set _) fun _ => pure _) (raise _)

theorem readExtra (n : Nat) : NeverFaults (readExtra n) := ite (pure _) (bcRead n)

theorem bcReadFields (n : Nat) : NeverFaults (bcReadFields n) := by
  induction n with
  | zero => exact pure _
  | succ n ih => exact bind (bcRead 8) fun _ => bind ih fun _ => pure _

theorem decodeSym (i : TableId) : NeverFaults (decodeSym i) := by
  intro s
  obtain ⟨bits, -, -, -, h⟩ | h | ⟨u, h⟩ := decodeWith_cases (s.tables.select i) s
  · exact .of_ok ((decodeSym_run i s).trans h)
  · exact .of_raise ((decodeSym_run i s).trans h)
  · exact .of_raise ((decodeSym_run i s).trans h)

theorem htbBuild (i : TableId) (len : List (BitVec 4)) : NeverFaults (htbBuild i len) := by
  unfold Machine.htbBuild
  cases buildTable (tableSize i) len with
  | none => exact raise _
  | some h => exact modify _

theorem winPut (b : Byte) : NeverFaults (winPut b) := get fun _ => ite (raise _) (set _)
theorem winCopy (l d : Word) : NeverFaults (winCopy l d) := get fun _ => ite (set _) (raise _)
theorem ringInsert (d : Word) : NeverFaults (ringInsert d) := modify _
theorem ringSelect (k : Fin 4) : NeverFaults (ringSelect k) := get fun _ => bind (set _) fun _ => pure _
theorem setLast (l d : Word) : NeverFaults (setLast l d) := modify _

/-! ### The symbols of LD but EOB -/

theorem lowDist : NeverFaults lowDist :=
  get fun _ => ite (bind (set _) fun _ => pure _) <| bind (decodeSym .ldd) fun _ =>
    ite (bind (modify _) fun _ => get fun _ => pure _) (bind (modify _) fun _ => pure _)

theorem readDistance (d : Nat) : NeverFaults (readDistance d) :=
  ite (pure _) <| ite (bind (bcRead _) fun _ => pure _) <|
    bind (readExtra _) fun _ => bind lowDist fun _ => pure _

theorem matchOp (q : Nat) : NeverFaults (matchOp q) :=
  bind (readExtra _) fun _ => bind (decodeSym .dd) fun d => bind (readDistance d) fun _ =>
    bind (ringInsert _) fun _ => bind (setLast _ _) fun _ => winCopy _ _

theorem repdOp (k : Fin 4) : NeverFaults (repdOp k) :=
  bind (ringSelect k) fun _ => bind (decodeSym .rd) fun _ => bind (readExtra _) fun _ =>
    bind (setLast _ _) fun _ => winCopy _ _

theorem shortOp (j : Nat) : NeverFaults (shortOp j) :=
  bind (bcRead _) fun _ => bind (ringInsert _) fun _ => bind (setLast _ _) fun _ => winCopy _ _

theorem replOp : NeverFaults replOp := get fun _ => ite (pure _) (winCopy _ _)

theorem readRecordLen (fb : Byte) : NeverFaults (readRecordLen fb) :=
  ite (bind (bcRead 8) fun _ => pure _) <| ite (bcRead 16) (pure _)

theorem filterRecord (fb : Byte) : NeverFaults (filterRecord fb) :=
  bind (readRecordLen fb) fun _ => bind (bcReadFields _) fun record => get fun s => by
    cases parseRecord s fb (bytesBits record) with
    | none => exact raise _
    | some r => exact set _

theorem filtOp : NeverFaults filtOp := bind (bcRead 8) fun _ => filterRecord _

theorem ldOp {m : Op Unit} (hm : LdOp m) : NeverFaults m := by
  cases hm with
  | lit b => exact winPut b
  | filt => exact filtOp
  | repl => exact replOp
  | repd k => exact repdOp k
  | short j => exact shortOp j
  | length q => exact matchOp q

/-! ### The block header and its lengths -/

theorem readMetaLengths (n : Nat) (ml : List (BitVec 4)) : NeverFaults (readMetaLengths n ml) := by
  induction n generalizing ml with
  | zero => exact pure _
  | succ n ih =>
    exact ite (pure _) <| bind (bcRead 4) fun _ => ite (ih _) <| bind (bcRead 4) fun _ =>
      ite (ih _) <| ite (raise _) (ih _)

theorem buildFour : NeverFaults buildFour :=
  get fun _ => bind (htbBuild .ld _) fun _ => bind (htbBuild .dd _) fun _ => bind (htbBuild .ldd _) fun _ =>
    bind (htbBuild .rd _) fun _ => modify _

theorem appendLens (ls : List (BitVec 4)) : NeverFaults (appendLens ls) :=
  bind (modify _) fun _ => get fun _ => ite buildFour (pure _)

theorem runLens (w base : Nat) (prev : Bool) : NeverFaults (runLens w base prev) :=
  bind (bcRead w) fun _ => get fun _ => ite (raise _) <| ite (raise _) (appendLens _)

theorem mdOp {m : Op Unit} (hm : MdOp m) : NeverFaults m := by
  cases hm with
  | len l => exact appendLens [l]
  | run w base prev => exact runLens w base prev

theorem blockHeaderOp : NeverFaults blockHeaderOp :=
  bind (modify _) fun _ => bind (modify _) fun _ => bind (bcRead 1) fun _ => ite (raise _) <|
    bind (bcRead 1) fun _ => get fun _ => ite (ite (set _) (raise _)) <|
      bind (readMetaLengths 20 []) fun ml => bind (htbBuild .md ml) fun _ => modify _

/-! ### The sequencer's own operations -/

/-- The start of a session: method 2 is refused, which is no fault (43_unpack_engine.md R217). -/
theorem enterMethod : NeverFaults enterMethod :=
  get fun _ => ite (set _) <| ite (refuse _) <| ite (set _) (raise _)

theorem startOp : NeverFaults startOp := get fun _ => ite (set _) <| bind (set _) fun _ => enterMethod

theorem storedOp : NeverFaults storedOp :=
  get fun _ => bind (bcReadBytes _) fun _ => bind (modify _) fun _ => modify _

theorem fetchLd : NeverFaults fetchLd :=
  bind (decodeSym .ld) fun x => by
    cases ldInstr x with
    | ok i => exact pure i
    | error e => exact raise _

theorem fetchMd : NeverFaults fetchMd :=
  bind (decodeSym .md) fun x => by
    cases mdInstr x with
    | ok i => exact pure i
    | error e => exact raise _

theorem applyFinish (i : FilterInstance) : NeverFaults (applyFinish i) := get fun _ => ite (set _) (raise _)

theorem finishHead (i : FilterInstance) : NeverFaults (finishHead i) := bind (applyFinish i) fun _ => modify _

end NeverFaults
end Sys2Proof.Machine
end

section
/-! From a state that meets the invariant no step ends in a fault (60_exceptions.md R420, entry 16): the queue names
programs of the registry, the programs hold commands only, and a filter starts only where its range is produced. -/

namespace Sys2Proof.Machine

variable {s : State} {i : FilterInstance} {p : FilterProgram} {e : RegEntry} {next : Op Instr}

/-! ### Filters -/

/-- A pending filter has its program in the registry, and that program holds commands only. -/
theorem State.QueueLegal.program (hs : s.QueueLegal) (hi : i ∈ s.pend) :
    ∃ e, s.registry[i.prog]? = some e ∧ e.prog.Legal := by
  obtain ⟨hreg, hpend⟩ := hs
  obtain ⟨hlt, -, -⟩ := hpend i hi
  exact ⟨_, List.getElem?_eq_getElem hlt, hreg _ (List.getElem_mem hlt)⟩

theorem RunOutcome.not_fault {n : Nat} {x : EStateM.Result Stop State Unit} (h : RunOutcome p n x) (r : Fault)
    (t : State) : x ≠ .error (.fault r) t := by
  cases h <;> nofun

/-- An Apply whose program is there and whose range is produced: the run takes commands only. -/
theorem applyInstance_faultFree (he : s.registry[i.prog]? = some e) (hlegal : e.prog.Legal) (hr : s.ready i = true) :
    FaultFree (applyInstance i) s := by
  obtain ⟨-, hcmds⟩ := hlegal
  have hrun : FaultFree (fvmRun e.prog s.cfg.fvmMaxOps) (s.applying e.prog i) :=
    (fvmRun_outcome hcmds (Nat.zero_add _)).not_fault
  exact .congr (applyInstance_run he hr) (hrun.bind fun _ u _ => NeverFaults.applyFinish i u)

/-- Drain, round by round: an Apply and the removal of the head leave a legal queue. -/
theorem drainLoop_faultFree (n : Nat) (hs : s.QueueLegal) : FaultFree (drainLoop n) s := by
  induction n generalizing s with
  | zero => exact NeverFaults.pure () s
  | succ n ih =>
    cases hp : s.pend with
    | nil => exact .of_ok (drainLoop_nil _ hp)
    | cons i l =>
      by_cases hr : s.ready i = true
      · obtain ⟨e, he, hlegal⟩ := hs.program (hp ▸ List.mem_cons_self)
        refine .congr ((drainLoop_cons n hp).trans (if_pos hr)) ?_
        refine (applyInstance_faultFree he hlegal hr).bind fun _ t ht => ?_
        exact ih (queueLegal_stable.popPend t ((queueLegal_stable.applyInstance i).of_ok ht hs))
      · exact .of_ok ((drainLoop_cons n hp).trans (if_neg hr))

/-- EOB drains the queue behind two bit reads, which leave it legal. -/
theorem eobOp_faultFree (hs : s.QueueLegal) : FaultFree eobOp s := by
  refine (NeverFaults.bcRead 1 s).bind fun c t ht => ?_
  have hqt := (queueLegal_stable.bcRead 1).of_ok ht hs
  by_cases hc : c = 1
  · rw [if_pos hc]
    exact NeverFaults.modify _ t
  · rw [if_neg hc]
    refine (NeverFaults.bcRead 1 t).bind fun _ u hu => ?_
    have hqu := (queueLegal_stable.bcRead 1).of_ok hu hqt
    exact (drainLoop_faultFree _ hqu).bind fun _ v _ => NeverFaults.get (fun _ => .ite (.set _) (.raise _)) v

/-! ### The plan of each phase -/

/-- From `s` the plan runs without a fault: its action, or its fetch and the execution of what it fetches. -/
def Plan.FaultFree (s : State) : Plan → Prop
  | .act m => Machine.FaultFree m s
  | .fetch m => Machine.FaultFree m s ∧ ∀ c u r, m s = .ok c u → exec c u ≠ .fault r

theorem step_ne_fault (h : (plan s).FaultFree s) (r : Fault) : step s ≠ .fault r := by
  cases hp : plan s with
  | act m =>
    rw [hp] at h
    rw [step_act hp]
    exact h.runOp r
  | fetch m =>
    rw [hp] at h
    obtain ⟨hm, hexec⟩ := h
    cases ho : m s with
    | ok c u =>
      rw [step_fetch_ok hp ho]
      exact hexec c u r ho
    | error x u =>
      cases x with
      | raise k =>
        rw [step_fetch_raise hp ho]
        nofun
      | fault f => exact absurd ho (hm f u)
      | refuse f =>
        simp only [step, hp, ho]
        nofun

theorem fetchLd_faultFree (hs : s.QueueLegal) : (Plan.fetch fetchLd).FaultFree s := by
  refine ⟨NeverFaults.fetchLd s, fun c u r hc => ?_⟩
  have hu := queueLegal_stable.fetchLd.of_ok hc hs
  obtain ⟨x, -, hx⟩ := fetchLd_ok hc
  obtain ⟨m, hm, hexec⟩ := exec_ldInstr hx
  rw [hexec u]
  obtain rfl | hm := hm
  · exact (eobOp_faultFree hu).runOp r
  · exact (NeverFaults.ldOp hm u).runOp r

theorem fetchMd_faultFree (s : State) : (Plan.fetch fetchMd).FaultFree s := by
  refine ⟨NeverFaults.fetchMd s, fun c u r hc => ?_⟩
  obtain ⟨x, -, hx⟩ := fetchMd_ok hc
  obtain ⟨m, hm, hexec⟩ := exec_mdInstr hx
  rw [hexec u]
  exact (NeverFaults.mdOp hm u).runOp r

theorem blockHeader_faultFree (s : State) : (Plan.fetch (pure .blockHeader)).FaultFree s := by
  refine ⟨NeverFaults.pure _ s, fun c u r hc => ?_⟩
  cases hc
  exact (NeverFaults.blockHeaderOp s).runOp r

/-- The checkpoint starts the head of the queue where its range is produced, completes the session, or goes on. -/
theorem checkpoint_faultFree (hs : s.QueueLegal) (hnext : (Plan.fetch next).FaultFree s) :
    (checkpoint s next).FaultFree s := by
  by_cases hready : ∃ i ∈ s.pend.head?, s.ready i = true
  · obtain ⟨i, hi, hr⟩ := hready
    obtain ⟨l, hp⟩ := List.head?_eq_some_iff.mp hi
    obtain ⟨e, he, -⟩ := hs.program (hp ▸ List.mem_cons_self)
    rw [checkpoint_ready next hp hr]
    exact .of_ok (applyStart_ok he hr)
  · rw [checkpoint_idle next fun i hi => Bool.eq_false_of_not_eq_true fun hr => hready ⟨i, hi, hr⟩]
    split
    · exact NeverFaults.modify _ s
    · exact hnext

/-- Fetching a command counts it or raises at the ceiling, and no command faults. -/
theorem fetchCommand_faultFree {c : Instr} (hc : c.isCommand = true) (s : State) :
    (Plan.fetch (fetchCommand c)).FaultFree s := by
  refine ⟨?_, fun d u r hd => ?_⟩
  · by_cases hops : s.fvm.ops < s.cfg.fvmMaxOps
    · exact .of_ok (fetchCommand_below hops hc)
    · exact .of_raise (fetchCommand_ceiling (Nat.le_of_not_lt hops))
  · obtain ⟨rfl, -, -⟩ := fetchCommand_ok hd
    obtain ⟨f, h⟩ | ⟨k, f, h⟩ := exec_command_cases hc u <;> rw [h] <;> nofun

/-- A running filter is the head of the queue, so its program is found. -/
theorem planFilter_faultFree (hs : s.QueueLegal) (hhead : (s.pend.head?.any fun i => s.ready i) = true) :
    (planFilter s).FaultFree s := by
  obtain ⟨i, hi, -⟩ := (Option.any_eq_true _ _).mp hhead
  obtain ⟨l, hp⟩ := List.head?_eq_some_iff.mp hi
  obtain ⟨e, he, -, hcmds⟩ := hs.program (hp ▸ List.mem_cons_self)
  have hrun : s.running = some (i, e.prog) := by simp only [State.running, hp, he, Option.map_some]
  by_cases hend : s.AtEnd e.prog
  · rw [planFilter_end hrun hend]
    exact NeverFaults.finishHead i s
  · obtain ⟨hended, hip⟩ := not_or.mp hend
    obtain ⟨c, hc⟩ := Option.ne_none_iff_exists'.mp hip
    rw [planFilter_command hrun (Bool.eq_false_of_not_eq_true hended) hc]
    exact fetchCommand_faultFree (List.all_eq_true.mp hcmds c (List.mem_of_getElem? hc)) s

theorem plan_faultFree (hs : s.Inv) : (plan s).FaultFree s := by
  obtain ⟨⟨-, hhead⟩, hqueue, -⟩ := inv_iff.mp hs
  by_cases hc : s.host.ctrlStart = true
  · rw [show plan s = .act startOp from if_pos hc]
    exact NeverFaults.startOp s
  · have hc := Bool.eq_false_of_not_eq_true hc
    cases hue : s.ue with
    | applyFilter =>
      rw [plan_applyFilter hc hue]
      exact planFilter_faultFree hqueue (hhead hue)
    | decodingSymbols =>
      rw [plan_symbols hc hue]
      exact checkpoint_faultFree hqueue (fetchLd_faultFree hqueue)
    | readingTables =>
      cases hh : s.hdr with
      | start =>
        rw [plan_header hc hue hh]
        exact checkpoint_faultFree hqueue (blockHeader_faultFree s)
      | lengths =>
        rw [plan_lengths hc hue hh]
        exact fetchMd_faultFree s
    | stored =>
      rw [show plan s = .act storedOp by simp [plan, hc, hue]]
      exact NeverFaults.storedOp s
    | idle | done | failed =>
      rw [show plan s = .act (pure ()) by simp [plan, hc, hue]]
      exact NeverFaults.pure () s

end Sys2Proof.Machine

open Sys2Proof Sys2Proof.Machine

/-- Settles O57: the invariant leaves no plan that could fault. -/
theorem invariantStepNeverFaults : Obligations.InvariantStepNeverFaults := by
  unfold Obligations.InvariantStepNeverFaults
  exact fun s r hs => step_ne_fault (plan_faultFree hs) r

/-- Settles O50: the raise writes the phase, the status and the error kind, and the codes are those of R411. -/
theorem raiseEndsTheSession : Obligations.RaiseEndsTheSession := by
  unfold Obligations.RaiseEndsTheSession
  exact fun k s => ⟨rfl, rfl, rfl, rfl, rfl, rfl, rfl⟩
end
